-- ==== Sys2Proof/Word.lean ====
section
/-! DEFINITION. The word types of HUFFCORE (00_scope rules R9 and R10): every value is unsigned. -/

namespace Sys2Proof

/-- One raw byte, a symbol of the alphabet 0..255 (R9). -/
abbrev Byte := BitVec 8

/-- A register, a command word, a histogram count, a bus offset or 32-bit bus data (R9, R20). -/
abbrev Word := BitVec 32

/-- A node index: 512 slots 0..511 (R9, R103). -/
abbrev NodeIdx := BitVec 9

/-- A node weight (R9, R140). -/
abbrev Weight := BitVec 40

end Sys2Proof
end

