-- ==== Sys2Proof/Config.lean ====
section
/-! DEFINITION. What an instance of HUFFCORE fixes (00_scope rules R8 and R9), the address map's bases
(20_memory rule R62), and the values the spec leaves free (10_state rules R41 to R43). -/

namespace Sys2Proof.Config

/-- The three buffer sizes of rule R8. A model takes them as arguments: they are fields of State,
and State.reset has the defaults. -/
structure Params where
  ibufSize : Word
  pbufSize : Word
  dbufSize : Word
  deriving DecidableEq, Repr

/-- The constraint of rule R8 on one size: a multiple of 4 from 4 to 2^24. -/
def sizeOk (size : Word) : Bool :=
  size.toNat % 4 == 0 && decide (4 ≤ size.toNat) && decide (size.toNat ≤ 2 ^ 24)

/-- The constraint of rule R8 on an instance. -/
def Params.ok (p : Params) : Bool :=
  sizeOk p.ibufSize && sizeOk p.pbufSize && sizeOk p.dbufSize

/-- The default sizes of rule R8. -/
def defaults : Params := { ibufSize := 65536, pbufSize := 131072, dbufSize := 65536 }

/-- The constant of register ID (R21): the ASCII bytes "HUF1" as a big-endian word. -/
def idWord : Word := 0x48554631

/-- NIL, the "no node" index (R9). -/
def nilIdx : NodeIdx := 511

/-- The longest code the 8-bit LEN field holds (R9, R40). -/
def maxCodeLen : Nat := 255

/-- First offset of the HIST window (R62, R67). -/
def histBase : Nat := 0x400
/-- First offset of the NODE window (R62, R68). -/
def nodeBase : Nat := 0x2000
/-- First offset of the CTAB window (R62, R69). -/
def ctabBase : Nat := 0x4000
/-- First offset of the IBUF aperture (R62, R70). -/
def ibufBase : Nat := 0x01000000
/-- First offset of the PBUF aperture (R62, R70). -/
def pbufBase : Nat := 0x02000000
/-- First offset of the DBUF aperture (R62, R70). -/
def dbufBase : Nat := 0x03000000
/-- First offset after the DBUF aperture (R62). -/
def mapEnd : Nat := 0x04000000

/-- FREE VALUE (log entry 4). What buffer byte `offset` holds after reset number `draws` until it is
written: one draw per byte at reset, fixed until written (R41 to R43, R261; 93 U1). No body: no
statement can rest on a value of it. -/
opaque bufferDraw (draws offset : Nat) : Byte

/-- FREE VALUE (log entry 9). BLOCK_BASE of rule R8, left OPEN: the host address of offset 0. Every
address of the model is an offset from it. -/
opaque blockBase : Nat

/-- The host address of an offset of the block (R8, R62). -/
def hostAddress (offset : Word) : Nat := blockBase + offset.toNat

end Sys2Proof.Config
end

