-- ==== Sys2Proof/Syntax.lean ====
section
/-! DEFINITION. The instructions of HUFFCORE: one constructor per row of spec/opcode_table.json
(30_encoding rules R90 to R95), and the two encoded spaces they live in. -/

namespace Sys2Proof

/-- A command word's meaning (R91, R92) or a host transaction (R60, R95). -/
inductive Instr where
  /-- NOP, word 0 (R213). -/
  | nop
  /-- COUNT, word 1 (R120). -/
  | count
  /-- BUILD, word 2 (R130). -/
  | build
  /-- GEN, word 3 (R150). -/
  | gen
  /-- PACK, word 4 (R165). -/
  | pack
  /-- UNPACK, word 5 (R185). -/
  | unpack
  /-- CLR, word 6 (R214). -/
  | clr
  /-- Reserved word 7 (R92, R215). -/
  | illegalOp7
  /-- Reserved words 8 to 15, `o` = bits 2:0 (R92, R215). -/
  | illegalOp8F (o : BitVec 3)
  /-- A word with reserved bits set, `r` = bits 31:4 (not zero), `p` = bits 3:0 (R92, R215). -/
  | illegalRsvd (r : BitVec 28) (p : BitVec 4)
  /-- RD8 of the byte at an offset (R60). -/
  | rd8 (offset : Word)
  /-- RD32 of the word at an offset (R60). -/
  | rd32 (offset : Word)
  /-- WR8 of a byte to an offset (R60). -/
  | wr8 (offset : Word) (data : Byte)
  /-- WR32 of a word to an offset (R60). -/
  | wr32 (offset : Word) (data : Word)
  deriving DecidableEq, Repr

/-- A host transaction on the port: the control bits {WRITE, SIZE32}, the offset and the data lines
(R95). DESIGN CHOICE (log entry 5): a WR8 carries its byte on data bits 7:0, and a read's data lines
mean nothing. -/
structure Transaction where
  kind   : BitVec 2
  offset : Word
  data   : Word
  deriving DecidableEq, Repr

/-- An encoded instruction: a 32-bit command word (R90) or a host transaction (R95). -/
inductive Encoding where
  | command (w : Word)
  | transaction (t : Transaction)
  deriving DecidableEq, Repr

/-- Whether an instruction is a command, completed by the core, or a host transaction (R4). -/
def Instr.isCommand : Instr → Bool
  | .nop | .count | .build | .gen | .pack | .unpack | .clr => true
  | .illegalOp7 | .illegalOp8F _ | .illegalRsvd _ _ => true
  | .rd8 _ | .rd32 _ | .wr8 _ _ | .wr32 _ _ => false

/-- Whether an encoding is a command word. -/
def Encoding.isCommand : Encoding → Bool
  | .command _ => true
  | .transaction _ => false

end Sys2Proof
end

