-- ==== Sys2Proof/Machine/State.lean ====
section
/-! DEFINITION. The state of HUFFCORE (10_state.md) and the reasons a step can stop. -/

namespace Sys2Proof.Machine

/-- STATUS.LAST_ERR (30_encoding rule R104). Codes 8 to 15 are never produced (93 X3), so they have no
constructor. -/
inductive ErrCode where
  | ok | illegalCmd | inputUnavailable | emptyInput | unknownSymbol | corruptStream | notReady | capacity
  deriving DecidableEq, Repr

/-- A command error: one constructor per cause of rule R105, carrying what ERR_POS records. -/
inductive CmdError where
  /-- A word outside the opcode map (R215); sub-cause 1 or 2 by its reserved bits. -/
  | illegalWord (w : Word)
  /-- COUNT or PACK with IN_LEN beyond IBUF_SIZE. -/
  | inputBeyondBuffer (inLen : Word)
  /-- UNPACK with PK_LEN beyond PBUF_SIZE. -/
  | artifactBeyondBuffer (pkLen : Word)
  /-- BUILD with every HIST entry 0. -/
  | emptyHistogram
  /-- PACK meets, at this least index, a byte whose code entry is invalid. -/
  | noCode (index : Nat)
  /-- UNPACK with PK_LEN below 4. -/
  | headerTruncated (pkLen : Word)
  /-- UNPACK with a payload that has not exactly ceil8(B) bytes, for this B. -/
  | payloadLength (bitCount : Nat)
  /-- UNPACK: this bit leads to an absent child. -/
  | absentChild (bit : Nat)
  /-- UNPACK: all these B bits are consumed in the middle of a code. -/
  | midCode (bitCount : Nat)
  /-- GEN without a tree. -/
  | noTreeToCode
  /-- UNPACK of a nonempty artifact without a tree. -/
  | noTreeToWalk
  /-- PACK needs this many bytes, more than PBUF_SIZE. -/
  | artifactOverflow (bytes : Nat)
  /-- UNPACK: this bit completes a symbol that DBUF has no room for. -/
  | outputOverflow (bit : Nat)
  deriving DecidableEq, Repr

/-- A record of the node arena (R38). -/
structure NodeRecord where
  weight : Weight
  left   : NodeIdx
  right  : NodeIdx
  valid  : Bool
  leaf   : Bool
  symbol : Byte
  deriving DecidableEq, Repr

/-- The invalid node record (R39). -/
def NodeRecord.invalid : NodeRecord :=
  { weight := 0, left := Config.nilIdx, right := Config.nilIdx, valid := false, leaf := false, symbol := 0 }

/-- A code table entry (R40): VALID and the bit string BITS, first bit first. LEN is the length of
BITS, and the 256 bits of storage are a view of it (20_memory rule R69; log entry 8). -/
structure CodeEntry where
  valid : Bool
  bits  : List Bool
  deriving DecidableEq, Repr

/-- The invalid code entry (R40): VALID 0, LEN 0, BITS []. -/
def CodeEntry.invalid : CodeEntry := { valid := false, bits := [] }

/-- HIST (R37). -/
abbrev HistMem := Vector Word 256
/-- NODE (R38). -/
abbrev NodeMem := Vector NodeRecord 512
/-- CTAB (R40). -/
abbrev CodeMem := Vector CodeEntry 256

/-- The bytes of IBUF, PBUF and DBUF written since reset, as (block offset, byte) pairs, the offsets
strictly rising (R41 to R43, R70). An unlisted byte has no value of its own: it reads as its free
draw (log entry 4). -/
abbrev Memory := List Host.Cell

/-- What the outside world does next (00_scope rule R16, log entry 1). -/
inductive Event where
  /-- The host issues a transaction (R60). -/
  | bus (t : Transaction)
  /-- The core has its turn: it completes the pending command, if there is one (R211). -/
  | core
  /-- The reset input (R260). -/
  | reset
  deriving DecidableEq, Repr

/-- The outcome of a host transaction, as the host sees it (R60). -/
inductive Response where
  /-- OKAY of a write. -/
  | okay
  /-- OKAY of RD8, with its byte. -/
  | data8 (v : Byte)
  /-- OKAY of RD32, with its word. -/
  | data32 (v : Word)
  /-- ERROR: a bus error (R63). -/
  | error
  deriving DecidableEq, Repr

/-- HUFFCORE's state. The fields from `draws` on are the model's own (log entries 1, 3 and 4). -/
structure State where
  /-- The command issued and not yet completed (R35). STATUS.BUSY is `pending ≠ none`. -/
  pending   : Option Word
  /-- STATUS.TREE_VALID (R23). -/
  treeValid : Bool
  /-- STATUS.CT_VALID (R23). -/
  ctValid   : Bool
  /-- STATUS.LAST_ERR (R23). -/
  lastErr   : ErrCode
  /-- STATUS.LAST_OP (R23). -/
  lastOp    : BitVec 4
  /-- STATUS.ERR_SUB (R23). -/
  errSub    : BitVec 4
  /-- STATUS.ERR_STICKY (R23). -/
  errSticky : Bool
  /-- INT_STATUS.DONE (R24). -/
  intDone   : Bool
  /-- INT_STATUS.ERR (R24). -/
  intErr    : Bool
  /-- INT_ENABLE.DONE_EN (R25). -/
  doneEn    : Bool
  /-- INT_ENABLE.ERR_EN (R25). -/
  errEn     : Bool
  /-- IN_LEN (R26). -/
  inLen     : Word
  /-- PK_LEN (R27). -/
  pkLen     : Word
  /-- BIT_LEN (R28). -/
  bitLen    : Word
  /-- OUT_LEN (R29). -/
  outLen    : Word
  /-- NSYM bits 8:0 (R30). -/
  nsym      : BitVec 9
  /-- ROOT bits 8:0 (R31). -/
  root      : NodeIdx
  /-- MAX_LEN bits 7:0 (R32). -/
  maxLen    : BitVec 8
  /-- ERR_POS (R33). -/
  errPos    : Word
  /-- IBUF_SIZE, fixed for the instance (R34). -/
  ibufSize  : Word
  /-- PBUF_SIZE, fixed for the instance (R34). -/
  pbufSize  : Word
  /-- DBUF_SIZE, fixed for the instance (R34). -/
  dbufSize  : Word
  /-- HIST (R37). -/
  hist      : HistMem
  /-- NODE (R38). -/
  node      : NodeMem
  /-- CTAB (R40). -/
  ctab      : CodeMem
  /-- The written bytes of IBUF, PBUF and DBUF (R41 to R43). -/
  mem       : Memory
  /-- How many resets have been seen: which draw an unwritten buffer byte reads as (R261). -/
  draws     : Nat
  /-- What the outside world does next, in order (R16, R77). -/
  schedule  : List Event
  /-- The responses the host has received, newest first (R60, R272). -/
  responses : List Response
  deriving DecidableEq, Repr

/-- The reset values of rule R50 for an instance with these sizes. -/
def State.resetWith (p : Config.Params) : State where
  pending   := none
  treeValid := false
  ctValid   := false
  lastErr   := .ok
  lastOp    := 0
  errSub    := 0
  errSticky := false
  intDone   := false
  intErr    := false
  doneEn    := false
  errEn     := false
  inLen     := 0
  pkLen     := 0
  bitLen    := 0
  outLen    := 0
  nsym      := 0
  root      := Config.nilIdx
  maxLen    := 0
  errPos    := 0
  ibufSize  := p.ibufSize
  pbufSize  := p.pbufSize
  dbufSize  := p.dbufSize
  hist      := Vector.replicate 256 0
  node      := Vector.replicate 512 NodeRecord.invalid
  ctab      := Vector.replicate 256 CodeEntry.invalid
  mem       := []
  draws     := 0
  schedule  := []
  responses := []

/-- The machine right after reset (R50), with the default sizes of rule R8. -/
def State.reset : State := State.resetWith Config.defaults

/-- Why a step stops the machine. -/
inductive Fault where
  /-- Raised by GEN alone, when a path from ROOT has more than 255 bits before it reaches a leaf: a
  node memory with a cycle or a path too long for LEN. No run reaches one (R138 (c) and (e)); the
  spec gives such a memory no effect. Safe: the model stops (log entry 7). -/
  | codePathTooLong
  deriving DecidableEq, Repr

/-- Why an instruction has no meaning. -/
inductive Refusal where
  /-- Raised by exec for an instruction without a meaning. No instruction is left so. Safe. -/
  | notModelled (mnemonic : String)
  deriving DecidableEq, Repr

end Sys2Proof.Machine
end

