-- ==== Sys2Proof/Machine/Flags.lean ====
section
/-! DEFINITION. The status words, the error encodings and the interrupt line (10_state rules R23 to
R25, R35, R36; 30_encoding rules R104 and R105). -/

namespace Sys2Proof.Machine

/-- The four bits of LAST_ERR (R104). -/
def ErrCode.bits : ErrCode → BitVec 4
  | .ok => 0
  | .illegalCmd => 1
  | .inputUnavailable => 2
  | .emptyInput => 3
  | .unknownSymbol => 4
  | .corruptStream => 5
  | .notReady => 6
  | .capacity => 7

/-- LAST_ERR of a command error (R105). -/
def CmdError.code : CmdError → ErrCode
  | .illegalWord _ => .illegalCmd
  | .inputBeyondBuffer _ => .inputUnavailable
  | .artifactBeyondBuffer _ => .inputUnavailable
  | .emptyHistogram => .emptyInput
  | .noCode _ => .unknownSymbol
  | .headerTruncated _ => .corruptStream
  | .payloadLength _ => .corruptStream
  | .absentChild _ => .corruptStream
  | .midCode _ => .corruptStream
  | .noTreeToCode => .notReady
  | .noTreeToWalk => .notReady
  | .artifactOverflow _ => .capacity
  | .outputOverflow _ => .capacity

/-- ERR_SUB of a command error (R105). -/
def CmdError.sub : CmdError → BitVec 4
  | .illegalWord w => if w.extractLsb' 4 28 = 0 then 2 else 1
  | .inputBeyondBuffer _ => 1
  | .artifactBeyondBuffer _ => 2
  | .emptyHistogram => 1
  | .noCode _ => 1
  | .headerTruncated _ => 1
  | .payloadLength _ => 2
  | .absentChild _ => 3
  | .midCode _ => 4
  | .noTreeToCode => 1
  | .noTreeToWalk => 2
  | .artifactOverflow _ => 1
  | .outputOverflow _ => 2

/-- ERR_POS of a command error (R105). Every value fits 32 bits in a reachable state. -/
def CmdError.pos : CmdError → Word
  | .illegalWord w => w
  | .inputBeyondBuffer n => n
  | .artifactBeyondBuffer n => n
  | .emptyHistogram => 0
  | .noCode i => BitVec.ofNat 32 i
  | .headerTruncated n => n
  | .payloadLength b => BitVec.ofNat 32 b
  | .absentChild t => BitVec.ofNat 32 t
  | .midCode b => BitVec.ofNat 32 b
  | .noTreeToCode => 0
  | .noTreeToWalk => 0
  | .artifactOverflow p => BitVec.ofNat 32 p
  | .outputOverflow t => BitVec.ofNat 32 t

/-- STATUS.BUSY (R35). -/
def State.busy (s : State) : Bool := s.pending.isSome

/-- STATUS as read (R23): the reserved bits are 0. -/
def State.statusWord (s : State) : Word :=
  0#15 ++ BitVec.ofBool s.errSticky ++ s.errSub ++ s.lastOp ++ s.lastErr.bits ++ 0#1
    ++ BitVec.ofBool s.ctValid ++ BitVec.ofBool s.treeValid ++ BitVec.ofBool s.busy

/-- INT_STATUS as read (R24). -/
def State.intStatusWord (s : State) : Word :=
  0#30 ++ BitVec.ofBool s.intErr ++ BitVec.ofBool s.intDone

/-- INT_ENABLE as read (R25). -/
def State.intEnableWord (s : State) : Word :=
  0#30 ++ BitVec.ofBool s.errEn ++ BitVec.ofBool s.doneEn

/-- The level of the interrupt output (R36). -/
def State.irq (s : State) : Bool := (s.intDone && s.doneEn) || (s.intErr && s.errEn)

end Sys2Proof.Machine
end

