-- ==== Sys2Proof/Machine/Ops.lean ====
section
/-! DEFINITION. The shared operations: memory and the tables, the byte buffers, the completion of a
command with or without an error (45_control rule R211, the spec's analogue of taking an exception,
60_exceptions rule R236), its acknowledgement (R237), and the response to a transaction (R60). -/

namespace Sys2Proof.Machine

/-- The byte a memory lists at an offset; none where nothing has been written since reset. -/
def Memory.lookup : Memory → Nat → Option Byte
  | [], _ => none
  | (k, v) :: m, a => if k = a then some v else Memory.lookup m a

/-- Writing one byte, the offsets kept strictly rising. -/
def Memory.write : Memory → Nat → Byte → Memory
  | [], a, v => [(a, v)]
  | (k, w) :: m, a, v =>
    if a < k then (a, v) :: (k, w) :: m
    else if a = k then (a, v) :: m
    else (k, w) :: Memory.write m a v

/-- Writing bytes at consecutive offsets, all at once as far as the host can see (R75, R76). -/
def Memory.writeBytes : Memory → Nat → List Byte → Memory
  | m, _, [] => m
  | m, a, v :: vs => Memory.writeBytes (Memory.write m a v) (a + 1) vs

/-- The canonical form: the offsets strictly rising. No entry can equal what an unlisted offset holds,
since that is no value at all (log entry 4). -/
def Memory.wf : Memory → Bool
  | [] => true
  | [_] => true
  | (a, _) :: (b, w) :: m => decide (a < b) && Memory.wf ((b, w) :: m)

/-- Histogram entry s (R37). -/
def histAt (h : HistMem) (s : Byte) : Word := h[s.toNat]'s.isLt

/-- Setting histogram entry s. -/
def histSet (h : HistMem) (s : Byte) (v : Word) : HistMem := h.set s.toNat v s.isLt

/-- Node record n (R38). -/
def nodeAt (nodes : NodeMem) (n : NodeIdx) : NodeRecord := nodes[n.toNat]'n.isLt

/-- Setting node record n. -/
def nodeSet (nodes : NodeMem) (n : NodeIdx) (r : NodeRecord) : NodeMem := nodes.set n.toNat r n.isLt

/-- Code table entry s (R40). -/
def codeAt (codes : CodeMem) (s : Byte) : CodeEntry := codes[s.toNat]'s.isLt

/-- Setting code table entry s. -/
def codeSet (codes : CodeMem) (s : Byte) (e : CodeEntry) : CodeMem := codes.set s.toNat e s.isLt

/-- The empty node memory and code table (R39, R40). -/
def emptyNodes : NodeMem := Vector.replicate 512 NodeRecord.invalid
def emptyCodes : CodeMem := Vector.replicate 256 CodeEntry.invalid
def emptyHist : HistMem := Vector.replicate 256 0

/-- The field LEN of a code entry (R40). -/
def CodeEntry.len (e : CodeEntry) : BitVec 8 := BitVec.ofNat 8 e.bits.length

/-- The number a bit string spells, its first bit the most significant (R69, R99). -/
def msbFirst (bits : List Bool) : Nat := bits.foldl (fun acc b => 2 * acc + b.toNat) 0

/-- The bits `from`, `from + 1`, … of a bit string, `count` of them, 0 at and beyond its end
(R69, R168). -/
def bitsFrom (bits : List Bool) (start count : Nat) : List Bool :=
  (List.range count).map fun u => bits.getD (start + u) false

/-- The four bytes of a word, most significant first (R98). -/
def bytesBE (v : Word) : List Byte :=
  [v.extractLsb' 24 8, v.extractLsb' 16 8, v.extractLsb' 8 8, v.extractLsb' 0 8]

/-- The four bytes of a word, least significant first (R71). -/
def bytesLE (v : Word) : List Byte :=
  [v.extractLsb' 0 8, v.extractLsb' 8 8, v.extractLsb' 16 8, v.extractLsb' 24 8]

/-- The smallest k with 8k ≥ n (R12). -/
def ceil8 (n : Nat) : Nat := (n + 7) / 8

/-- The byte a buffer holds at a block offset: the one written last, or its free draw (R41). -/
def State.readByte (s : State) (a : Nat) : Byte :=
  (Memory.lookup s.mem a).getD (Config.bufferDraw s.draws a)

/-- A 32-bit read of a buffer, little-endian in its lanes (R71). -/
def State.readWord (s : State) (a : Nat) : Word :=
  s.readByte (a + 3) ++ s.readByte (a + 2) ++ s.readByte (a + 1) ++ s.readByte a

/-- Writing consecutive bytes of a buffer. -/
def State.writeBytes (s : State) (a : Nat) (vs : List Byte) : State :=
  { s with mem := Memory.writeBytes s.mem a vs }

/-- IBUF[i] (R41, R70). -/
def State.ibufByte (s : State) (i : Nat) : Byte := s.readByte (Config.ibufBase + i)
/-- PBUF[i] (R42, R70). -/
def State.pbufByte (s : State) (i : Nat) : Byte := s.readByte (Config.pbufBase + i)
/-- DBUF[i] (R43, R70). -/
def State.dbufByte (s : State) (i : Nat) : Byte := s.readByte (Config.dbufBase + i)

/-- What a command's rule yields: the state with its writes, or one error (R18). -/
abbrev CmdResult := Except CmdError State

/-- The status update of a successful completion (R211), on the state with the command's writes. -/
def State.completeOk (op : BitVec 4) (s : State) : State :=
  { s with
    lastOp := op, lastErr := .ok, errSub := 0, errPos := 0
    intDone := true, pending := none }

/-- The status update of a completion with an error (R211, R236): nothing else is written. -/
def State.completeErr (op : BitVec 4) (e : CmdError) (s : State) : State :=
  { s with
    lastOp := op, lastErr := e.code, errSub := e.sub, errPos := e.pos
    errSticky := true, intErr := true
    intDone := true, pending := none }

/-- The completion of a command whose LAST_OP is `op`, as one atomic step (R211): on an error the
state before the command is kept but for the status fields (R14, R232). -/
def State.complete (op : BitVec 4) (s : State) : CmdResult → State
  | .ok written => written.completeOk op
  | .error e => s.completeErr op e

/-- Acknowledging the interrupt by a write of `v` to INT_STATUS (R24, R237): write one to clear. -/
def State.ackInterrupt (v : Word) (s : State) : State :=
  { s with intDone := s.intDone && !v.getLsbD 0, intErr := s.intErr && !v.getLsbD 1 }

/-- Acknowledging errors by a write of `v` to STATUS (R23, R237): bit 16 clears ERR_STICKY, every
other bit is ignored. -/
def State.ackSticky (v : Word) (s : State) : State :=
  { s with errSticky := s.errSticky && !v.getLsbD 16 }

/-- The host receives a response (R60). -/
def State.respond (r : Response) (s : State) : State := { s with responses := r :: s.responses }

/-- The end of a write transaction: OKAY with its effect, or ERROR and no change (R60, R63). -/
def State.answerWrite (s : State) : Option State → State
  | some written => written.respond .okay
  | none => s.respond .error

/-- The reset event (R260, R261): every piece of state takes its reset value, a pending command is
abandoned, the buffers get fresh draws. The sizes are the instance's (R34); what the outside world
has received and will do is not the block's. -/
def State.resetEvent (s : State) : State :=
  { State.resetWith { ibufSize := s.ibufSize, pbufSize := s.pbufSize, dbufSize := s.dbufSize } with
    draws := s.draws + 1
    schedule := s.schedule
    responses := s.responses }

end Sys2Proof.Machine
end

