-- ==== Sys2Proof/Machine/Operands.lean ====
section
/-! DEFINITION. Where operands are: the address map of a transaction's offset (20_memory rules R61 to
R70), and the input bytes, the artifact's header and the artifact's bits of a command (R93, R98, R99). -/

namespace Sys2Proof.Machine

/-- The sixteen registers (10_state rule R20). -/
inductive Reg where
  | id | cmd | status | intStatus | intEnable | inLen | pkLen | bitLen
  | outLen | nsym | root | maxLen | errPos | ibufSize | pbufSize | dbufSize
  deriving DecidableEq, Repr

/-- The register at byte offset 4·k, k = 0..15 (R20). -/
def Reg.ofIndex (k : Nat) : Reg :=
  match k with
  | 0 => .id
  | 1 => .cmd
  | 2 => .status
  | 3 => .intStatus
  | 4 => .intEnable
  | 5 => .inLen
  | 6 => .pkLen
  | 7 => .bitLen
  | 8 => .outLen
  | 9 => .nsym
  | 10 => .root
  | 11 => .maxLen
  | 12 => .errPos
  | 13 => .ibufSize
  | 14 => .pbufSize
  | _ => .dbufSize

/-- What an offset of the block names (R62). -/
inductive Loc where
  /-- A register (R20). -/
  | register (r : Reg)
  /-- HIST[s] (R67). -/
  | hist (s : Byte)
  /-- Word `w` of node record n (R68). -/
  | node (n : NodeIdx) (w : BitVec 2)
  /-- Word `w` of code entry s (R69). -/
  | code (s : Byte) (w : BitVec 4)
  /-- A byte of IBUF, PBUF or DBUF, by its block offset (R70). -/
  | buffer (a : Nat)
  /-- Reserved, or at or beyond a buffer's size (R62, R63). -/
  | unmapped
  deriving DecidableEq, Repr

/-- A byte of the aperture from `base`: mapped below the buffer's size (R62, R70). -/
def bufferLoc (base : Nat) (size : Word) (a : Nat) : Loc :=
  if a - base < size.toNat then .buffer a else .unmapped

/-- The address map (R62). -/
def State.locate (s : State) (offset : Word) : Loc :=
  let a := offset.toNat
  if a < 0x40 then .register (Reg.ofIndex (a / 4))
  else if a < Config.histBase then .unmapped
  else if a < 0x800 then .hist (BitVec.ofNat 8 ((a - Config.histBase) / 4))
  else if a < Config.nodeBase then .unmapped
  else if a < Config.ctabBase then
    .node (BitVec.ofNat 9 ((a - Config.nodeBase) / 16)) (BitVec.ofNat 2 (a / 4))
  else if a < 0x8000 then
    .code (BitVec.ofNat 8 ((a - Config.ctabBase) / 64)) (BitVec.ofNat 4 (a / 4))
  else if a < Config.ibufBase then .unmapped
  else if a < Config.pbufBase then bufferLoc Config.ibufBase s.ibufSize a
  else if a < Config.dbufBase then bufferLoc Config.pbufBase s.pbufSize a
  else if a < Config.mapEnd then bufferLoc Config.dbufBase s.dbufSize a
  else .unmapped

/-- Whether a 32-bit transaction's offset is 4-aligned (R72). -/
def aligned (offset : Word) : Bool := offset.toNat % 4 == 0

/-- The first `n` bytes of IBUF, the input of COUNT and PACK (R93). -/
def State.inputBytes (s : State) (n : Nat) : List Byte := (List.range n).map s.ibufByte

/-- The logical bit count B in the header of the artifact in PBUF (R98). -/
def State.headerBits (s : State) : Nat :=
  (s.pbufByte 0).toNat * 2 ^ 24 + (s.pbufByte 1).toNat * 2 ^ 16
    + (s.pbufByte 2).toNat * 2 ^ 8 + (s.pbufByte 3).toNat

/-- Logical bit t of the artifact in PBUF: bit 7 − (t mod 8) of payload byte t div 8 (R99). -/
def State.artifactBit (s : State) (t : Nat) : Bool :=
  (s.pbufByte (4 + t / 8)).getLsbD (7 - t % 8)

/-- The first `count` logical bits of the artifact; the padding after them is not read (R194). -/
def State.artifactBits (s : State) (count : Nat) : List Bool := (List.range count).map s.artifactBit

end Sys2Proof.Machine
end

