-- ==== Sys2Proof/Machine/Registers.lean ====
section
/-! DEFINITION. Reading and writing the registers (10_state rules R20 to R34; 20_memory rules R64 to
R66, R74). -/

namespace Sys2Proof.Machine

/-- The value an RD32 of a register returns, reserved bits 0 (R64, R66). -/
def State.readReg (s : State) : Reg → Word
  | .id => Config.idWord
  | .cmd => 0
  | .status => s.statusWord
  | .intStatus => s.intStatusWord
  | .intEnable => s.intEnableWord
  | .inLen => s.inLen
  | .pkLen => s.pkLen
  | .bitLen => s.bitLen
  | .outLen => s.outLen
  | .nsym => s.nsym.setWidth 32
  | .root => s.root.setWidth 32
  | .maxLen => s.maxLen.setWidth 32
  | .errPos => s.errPos
  | .ibufSize => s.ibufSize
  | .pbufSize => s.pbufSize
  | .dbufSize => s.dbufSize

/-- The effect of a WR32 of `v` to a register; none is a bus error: a read-only register (R65), or
CMD, IN_LEN or PK_LEN while a command is pending (R74). -/
def State.writeReg (s : State) (v : Word) : Reg → Option State
  | .status => some (s.ackSticky v)
  | .intStatus => some (s.ackInterrupt v)
  | .intEnable => some { s with doneEn := v.getLsbD 0, errEn := v.getLsbD 1 }
  | .cmd => if s.busy then none else some { s with pending := some v }
  | .inLen => if s.busy then none else some { s with inLen := v }
  | .pkLen => if s.busy then none else some { s with pkLen := v }
  | .id | .bitLen | .outLen | .nsym | .root | .maxLen | .errPos => none
  | .ibufSize | .pbufSize | .dbufSize => none

end Sys2Proof.Machine
end

