-- ==== Sys2Proof/Machine/Windows.lean ====
section
/-! DEFINITION. The read windows onto the node arena and the code table (20_memory rules R68 and R69). -/

namespace Sys2Proof.Machine

/-- Word `w` of a node record in the NODE window (R68). -/
def NodeRecord.word (r : NodeRecord) (w : BitVec 2) : Word :=
  match w.toNat with
  | 0 => r.weight.extractLsb' 0 32
  | 1 => 0#24 ++ r.weight.extractLsb' 32 8
  | 2 => 0#7 ++ r.right ++ 0#7 ++ r.left
  | _ => 0#16 ++ r.symbol ++ 0#6 ++ BitVec.ofBool r.leaf ++ BitVec.ofBool r.valid

/-- Word `w` of a code entry in the CTAB window (R69): VALID and LEN, then eight words of code bits,
left-aligned, then zeros. -/
def CodeEntry.word (e : CodeEntry) (w : BitVec 4) : Word :=
  let k := w.toNat
  if k = 0 then BitVec.ofBool e.valid ++ 0#23 ++ e.len
  else if k ≤ 8 then BitVec.ofNat 32 (msbFirst (bitsFrom e.bits (32 * (k - 1)) 32))
  else 0

end Sys2Proof.Machine
end

