-- ==== Sys2Proof/Machine/Bus.lean ====
section
/-! DEFINITION. The four host transactions (20_memory rules R60 to R75). A bus error is the response
ERROR and no change of state (R60, R63; log entry 2). -/

namespace Sys2Proof.Machine

/-- RD8's response (R61, R70, R74). -/
def State.rd8Response (s : State) (offset : Word) : Response :=
  if s.busy then .error
  else
    match s.locate offset with
    | .buffer a => .data8 (s.readByte a)
    | .register _ | .hist _ | .node _ _ | .code _ _ | .unmapped => .error

/-- RD32's response (R61, R64, R67 to R72, R74). -/
def State.rd32Response (s : State) (offset : Word) : Response :=
  if aligned offset then
    match s.locate offset with
    | .register r => .data32 (s.readReg r)
    | .hist x => if s.busy then .error else .data32 (histAt s.hist x)
    | .node n w => if s.busy then .error else .data32 ((nodeAt s.node n).word w)
    | .code x w => if s.busy then .error else .data32 ((codeAt s.ctab x).word w)
    | .buffer a => if s.busy then .error else .data32 (s.readWord a)
    | .unmapped => .error
  else .error

/-- WR8's effect; none is a bus error (R61, R70, R74). -/
def State.wr8Effect (s : State) (offset : Word) (v : Byte) : Option State :=
  if s.busy then none
  else
    match s.locate offset with
    | .buffer a => some (s.writeBytes a [v])
    | .register _ | .hist _ | .node _ _ | .code _ _ | .unmapped => none

/-- WR32's effect; none is a bus error (R61, R65, R67, R70 to R72, R74). -/
def State.wr32Effect (s : State) (offset : Word) (v : Word) : Option State :=
  if aligned offset then
    match s.locate offset with
    | .register r => s.writeReg v r
    | .hist x => if s.busy then none else some { s with hist := histSet s.hist x v }
    | .buffer a => if s.busy then none else some (s.writeBytes a (bytesLE v))
    | .node _ _ | .code _ _ | .unmapped => none
  else none

/-- RD8 (R60). -/
def execRd8 (offset : Word) (s : State) : Host.Outcome State Fault Refusal :=
  .next (s.respond (s.rd8Response offset))

/-- RD32 (R60). -/
def execRd32 (offset : Word) (s : State) : Host.Outcome State Fault Refusal :=
  .next (s.respond (s.rd32Response offset))

/-- WR8 (R60). -/
def execWr8 (offset : Word) (v : Byte) (s : State) : Host.Outcome State Fault Refusal :=
  .next (s.answerWrite (s.wr8Effect offset v))

/-- WR32 (R60). -/
def execWr32 (offset : Word) (v : Word) (s : State) : Host.Outcome State Fault Refusal :=
  .next (s.answerWrite (s.wr32Effect offset v))

end Sys2Proof.Machine
end

