-- ==== Sys2Proof/Machine/CodeTable.lean ====
section
/-! DEFINITION. The Code Table Generator, command GEN (42_code_table.md). -/

namespace Sys2Proof.Machine

/-- The leaves under node n with the paths that lead to them, LEFT before RIGHT, on paths of at most
`depth` more bits (R150); none when a longer path does not end (log entry 7). -/
def codeWalk (nodes : NodeMem) : (depth : Nat) → NodeIdx → List Bool → Option (List (Byte × List Bool))
  | 0, n, path =>
    if (nodeAt nodes n).leaf then some [((nodeAt nodes n).symbol, path)] else none
  | depth + 1, n, path =>
    if (nodeAt nodes n).leaf then some [((nodeAt nodes n).symbol, path)]
    else
      let under (child : NodeIdx) (bit : Bool) : Option (List (Byte × List Bool)) :=
        if child = Config.nilIdx then some [] else codeWalk nodes depth child (path ++ [bit])
      match under (nodeAt nodes n).left false, under (nodeAt nodes n).right true with
      | some l, some r => some (l ++ r)
      | _, _ => none

/-- The code table that holds these codes and no other (R150). -/
def codeTable (codes : List (Byte × List Bool)) : CodeMem :=
  codes.foldl (fun t c => codeSet t c.1 { valid := true, bits := c.2 }) emptyCodes

/-- The greatest length of a valid code, 0 where there is none (R32, R150). -/
def greatestLen (t : CodeMem) : Nat :=
  ((t.toList.filter (·.valid)).map (·.bits.length)).foldl max 0

/-- The code table GEN makes of the tree under a root (R150). -/
def genTable (nodes : NodeMem) (root : NodeIdx) : Option CodeMem :=
  (codeWalk nodes Config.maxCodeLen root []).map codeTable

/-- GEN's writes, for the table it has made (R150). -/
def State.withTable (s : State) (t : CodeMem) : State :=
  { s with ctab := t, ctValid := true, maxLen := BitVec.ofNat 8 (greatestLen t) }

/-- GEN (R150): its completion; a fault only where a path does not end within 255 bits (log entry 7). -/
def execGen (s : State) : Host.Outcome State Fault Refusal :=
  if s.treeValid then
    match genTable s.node s.root with
    | some t => .next (s.complete 3 (.ok (s.withTable t)))
    | none => .fault .codePathTooLong
  else .next (s.complete 3 (.error .noTreeToCode))

end Sys2Proof.Machine
end

