-- ==== Sys2Proof/Machine/Control.lean ====
section
/-! DEFINITION. NOP, CLR and the illegal command words (45_control rules R213 to R215). -/

namespace Sys2Proof.Machine

/-- NOP (R213): its completion. -/
def execNop (s : State) : Host.Outcome State Fault Refusal :=
  .next (s.complete 0 (.ok s))

/-- CLR's writes (R214). -/
def State.cleared (s : State) : State :=
  { s with
    hist := emptyHist, node := emptyNodes, ctab := emptyCodes
    root := Config.nilIdx, treeValid := false, ctValid := false
    nsym := 0, maxLen := 0, bitLen := 0, outLen := 0 }

/-- CLR (R214): its completion. -/
def execClr (s : State) : Host.Outcome State Fault Refusal :=
  .next (s.complete 6 (.ok s.cleared))

/-- The completion of an illegal word: LAST_OP holds its bits 3:0 (R215). -/
def State.completeIllegal (s : State) (w : Word) : State :=
  s.complete (w.extractLsb' 0 4) (.error (.illegalWord w))

/-- The reserved word 7 (R215). -/
def execIllegalOp7 (s : State) : Host.Outcome State Fault Refusal :=
  .next (s.completeIllegal 7)

/-- A reserved word 8 to 15 (R215). -/
def execIllegalOp8F (o : BitVec 3) (s : State) : Host.Outcome State Fault Refusal :=
  .next (s.completeIllegal (0#28 ++ (1#1 ++ o)))

/-- A word with reserved bits set (R215). -/
def execIllegalRsvd (r : BitVec 28) (p : BitVec 4) (s : State) : Host.Outcome State Fault Refusal :=
  .next (s.completeIllegal (r ++ p))

end Sys2Proof.Machine
end

