-- ==== Sys2Proof/Machine/Histogram.lean ====
section
/-! DEFINITION. The Frequency Counter, command COUNT (40_histogram.md). -/

namespace Sys2Proof.Machine

/-- One more occurrence of symbol s (R120). -/
def histInc (h : HistMem) (s : Byte) : HistMem := histSet h s (histAt h s + 1)

/-- The histogram of a byte sequence (R120). -/
def histogram (bytes : List Byte) : HistMem := bytes.foldl histInc emptyHist

/-- The number of symbols with a nonzero count (R120, R122). -/
def distinctSymbols (h : HistMem) : Nat := h.toList.countP (· != 0)

/-- COUNT's rule (R120). -/
def countResult (s : State) : CmdResult :=
  if s.ibufSize.toNat < s.inLen.toNat then .error (.inputBeyondBuffer s.inLen)
  else
    let h := histogram (s.inputBytes s.inLen.toNat)
    .ok { s with hist := h, nsym := BitVec.ofNat 9 (distinctSymbols h) }

/-- COUNT (R120): its completion. -/
def execCount (s : State) : Host.Outcome State Fault Refusal :=
  .next (s.complete 1 (countResult s))

end Sys2Proof.Machine
end

