-- ==== Sys2Proof/Machine/Packer.lean ====
section
/-! DEFINITION. The Bit Packer, command PACK (43_packer.md). -/

namespace Sys2Proof.Machine

/-- The codes of these bytes, concatenated in order (R167); the index of the first byte without a
valid code (R166), the first byte having index `i`. -/
def encodeBytes (t : CodeMem) : (i : Nat) → List Byte → Except CmdError (List Bool)
  | _, [] => .ok []
  | i, b :: bs =>
    if (codeAt t b).valid then
      match encodeBytes t (i + 1) bs with
      | .ok rest => .ok ((codeAt t b).bits ++ rest)
      | .error e => .error e
    else .error (.noCode i)

/-- Payload byte j (R168): bits 8j to 8j+7 of the bit string, the first in bit 7, padded with 0. -/
def payloadByte (bits : List Bool) (j : Nat) : Byte := BitVec.ofNat 8 (msbFirst (bitsFrom bits (8 * j) 8))

/-- The payload: ceil8(B) bytes (R168). -/
def payload (bits : List Bool) : List Byte := (List.range (ceil8 bits.length)).map (payloadByte bits)

/-- The artifact: the big-endian bit count, then the payload (R97 to R99). -/
def artifact (bits : List Bool) : List Byte := bytesBE (BitVec.ofNat 32 bits.length) ++ payload bits

/-- PACK's writes, for the bit string it has made (R165). -/
def State.withArtifact (s : State) (bits : List Bool) : State :=
  { s.writeBytes Config.pbufBase (artifact bits) with
    pkLen := BitVec.ofNat 32 (4 + ceil8 bits.length)
    bitLen := BitVec.ofNat 32 bits.length }

/-- PACK's rule, its errors in the order of rule R235 (R165). -/
def packResult (s : State) : CmdResult :=
  if s.ibufSize.toNat < s.inLen.toNat then .error (.inputBeyondBuffer s.inLen)
  else
    match encodeBytes s.ctab 0 (s.inputBytes s.inLen.toNat) with
    | .error e => .error e
    | .ok bits =>
      if s.pbufSize.toNat < 4 + ceil8 bits.length then .error (.artifactOverflow (4 + ceil8 bits.length))
      else .ok (s.withArtifact bits)

/-- PACK (R165): its completion. -/
def execPack (s : State) : Host.Outcome State Fault Refusal :=
  .next (s.complete 4 (packResult s))

end Sys2Proof.Machine
end

