-- ==== Sys2Proof/Machine/TreeBuilder.lean ====
section
/-! DEFINITION. The Tree Builder, command BUILD (41_tree_builder.md). -/

namespace Sys2Proof.Machine

/-- An entry of BUILD's priority container (R130). -/
structure QEntry where
  weight : Weight
  seq    : Nat
  idx    : NodeIdx
  deriving DecidableEq, Repr

/-- Whether an entry is extracted before another: less weight, and among equal weights less seq (R132). -/
def QEntry.before (a b : QEntry) : Bool :=
  decide (a.weight.toNat < b.weight.toNat) || (a.weight == b.weight && decide (a.seq < b.seq))

/-- ExtractMin (R132): the entry that is before every other, and the rest. -/
def extractMin : List QEntry → Option (QEntry × List QEntry)
  | [] => none
  | e :: q =>
    match extractMin q with
    | none => some (e, [])
    | some (m, rest) => if e.before m then some (e, q) else some (m, e :: rest)

/-- The symbols with a nonzero count, ascending, each with its count (R131). -/
def presentSymbols (h : HistMem) : List (Word × Nat) :=
  h.toList.zipIdx.filter fun p => p.1 != 0

/-- The leaf record of a symbol (R130). -/
def leafRecord (symbol : Byte) (count : Word) : NodeRecord :=
  { weight := count.setWidth 40, left := Config.nilIdx, right := Config.nilIdx
    valid := true, leaf := true, symbol := symbol }

/-- The internal record of a merge (R130, R133): the first entry extracted is LEFT. -/
def mergeRecord (a b : QEntry) : NodeRecord :=
  { weight := a.weight + b.weight, left := a.idx, right := b.idx
    valid := true, leaf := false, symbol := 0 }

/-- The root over a single leaf (R134). -/
def singleRoot (a : QEntry) : NodeRecord :=
  { weight := a.weight, left := a.idx, right := Config.nilIdx
    valid := true, leaf := false, symbol := 0 }

/-- The index of the k-th internal node (R38). -/
def internalIdx (k : Nat) : NodeIdx := BitVec.ofNat 9 (256 + k)

/-- The priority container after the leaves are inserted, seq 0 for the least symbol (R131). -/
def leafQueue (h : HistMem) : List QEntry :=
  (presentSymbols h).zipIdx.map fun p =>
    { weight := p.1.1.setWidth 40, seq := p.2, idx := BitVec.ofNat 9 p.1.2 }

/-- The node memory after the leaves are created: the leaf of symbol s is record s (R131), every
other record is invalid (R136). -/
def leafNodes (h : HistMem) : NodeMem :=
  (presentSymbols h).foldl
    (fun nodes p => nodeSet nodes (BitVec.ofNat 9 p.2) (leafRecord (BitVec.ofNat 8 p.2) p.1))
    emptyNodes

/-- `count` merges, the first of them the k-th of the BUILD, its entry inserted with this seq (R130). -/
def mergeLoop : (count k seq : Nat) → List QEntry → NodeMem → NodeMem
  | 0, _, _, _, nodes => nodes
  | count + 1, k, seq, q, nodes =>
    match extractMin q with
    | none => nodes
    | some (a, q₁) =>
      match extractMin q₁ with
      | none => nodes
      | some (b, q₂) =>
        mergeLoop count (k + 1) (seq + 1)
          ({ weight := a.weight + b.weight, seq := seq, idx := internalIdx k } :: q₂)
          (nodeSet nodes (internalIdx k) (mergeRecord a b))

/-- The node memory BUILD makes of a histogram that is not all zero (R130): one synthetic root over a
single leaf (R134), or one internal node per merge. -/
def buildNodes (h : HistMem) : NodeMem :=
  match leafQueue h with
  | [only] => nodeSet (leafNodes h) (internalIdx 0) (singleRoot only)
  | q => mergeLoop (q.length - 1) 0 q.length q (leafNodes h)

/-- The root BUILD leaves over this many leaves (R130, R134). -/
def buildRoot (leaves : Nat) : NodeIdx := internalIdx (leaves - 2)

/-- BUILD's rule (R130): the new tree, and the whole code table invalidated (R137). -/
def buildResult (s : State) : CmdResult :=
  let leaves := distinctSymbols s.hist
  if leaves = 0 then .error .emptyHistogram
  else .ok { s with
    node := buildNodes s.hist, root := buildRoot leaves, treeValid := true
    nsym := BitVec.ofNat 9 leaves
    ctab := emptyCodes, ctValid := false, maxLen := 0 }

/-- BUILD (R130): its completion. -/
def execBuild (s : State) : Host.Outcome State Fault Refusal :=
  .next (s.complete 2 (buildResult s))

end Sys2Proof.Machine
end

