-- ==== Sys2Proof/Machine/Unpacker.lean ====
section
/-! DEFINITION. The Bit Unpacker, command UNPACK (44_unpacker.md). -/

namespace Sys2Proof.Machine

/-- The child a bit leads to: LEFT on 0, RIGHT on 1 (R190). -/
def childOf (r : NodeRecord) (bit : Bool) : NodeIdx := if bit then r.right else r.left

/-- The walk over the bits from number t on, at node n with the output so far (R185, R190): the node
it ends at and the whole output, or the first error in bit order (R191, R193). `room` is DBUF_SIZE. -/
def bitWalk (nodes : NodeMem) (root : NodeIdx) (room : Nat) :
    (t : Nat) → NodeIdx → List Byte → List Bool → Except CmdError (NodeIdx × List Byte)
  | _, n, out, [] => .ok (n, out)
  | t, n, out, bit :: bits =>
    let c := childOf (nodeAt nodes n) bit
    if c = Config.nilIdx then .error (.absentChild t)
    else if (nodeAt nodes c).leaf then
      if out.length = room then .error (.outputOverflow t)
      else bitWalk nodes root room (t + 1) root (out ++ [(nodeAt nodes c).symbol]) bits
    else bitWalk nodes root room (t + 1) c out bits

/-- The bytes a bit string decodes to against the tree (R185): the walk must end at the root (R192). -/
def decodeBytes (nodes : NodeMem) (root : NodeIdx) (room : Nat) (bits : List Bool) :
    Except CmdError (List Byte) :=
  match bitWalk nodes root room 0 root [] bits with
  | .error e => .error e
  | .ok (n, out) => if n = root then .ok out else .error (.midCode bits.length)

/-- UNPACK's writes, for its output and bit count (R185). -/
def State.withOutput (s : State) (out : List Byte) (bitCount : Nat) : State :=
  { s.writeBytes Config.dbufBase out with
    outLen := BitVec.ofNat 32 out.length
    bitLen := BitVec.ofNat 32 bitCount }

/-- UNPACK's rule, its errors in the order of rule R235 (R185). -/
def unpackResult (s : State) : CmdResult :=
  let p := s.pkLen.toNat
  let b := s.headerBits
  if s.pbufSize.toNat < p then .error (.artifactBeyondBuffer s.pkLen)
  else if p < 4 then .error (.headerTruncated s.pkLen)
  else if p - 4 ≠ ceil8 b then .error (.payloadLength b)
  else if b = 0 then .ok { s with outLen := 0, bitLen := 0 }
  else if s.treeValid then
    match decodeBytes s.node s.root s.dbufSize.toNat (s.artifactBits b) with
    | .ok out => .ok (s.withOutput out b)
    | .error e => .error e
  else .error .noTreeToWalk

/-- UNPACK (R185): its completion. -/
def execUnpack (s : State) : Host.Outcome State Fault Refusal :=
  .next (s.complete 5 (unpackResult s))

end Sys2Proof.Machine
end

