-- ==== Sys2Proof/Machine/Dispatch.lean ====
section
/-! DEFINITION. The meaning of every instruction, one arm per constructor (45_control rule R212). -/

namespace Sys2Proof.Machine

def exec (i : Instr) (s : State) : Host.Outcome State Fault Refusal :=
  match i with
  | .nop => Sys2Proof.Machine.execNop s
  | .count => Sys2Proof.Machine.execCount s
  | .build => Sys2Proof.Machine.execBuild s
  | .gen => Sys2Proof.Machine.execGen s
  | .pack => Sys2Proof.Machine.execPack s
  | .unpack => Sys2Proof.Machine.execUnpack s
  | .clr => Sys2Proof.Machine.execClr s
  | .illegalOp7 => Sys2Proof.Machine.execIllegalOp7 s
  | .illegalOp8F o => Sys2Proof.Machine.execIllegalOp8F o s
  | .illegalRsvd r p => Sys2Proof.Machine.execIllegalRsvd r p s
  | .rd8 offset => Sys2Proof.Machine.execRd8 offset s
  | .rd32 offset => Sys2Proof.Machine.execRd32 offset s
  | .wr8 offset data => Sys2Proof.Machine.execWr8 offset data s
  | .wr32 offset data => Sys2Proof.Machine.execWr32 offset data s

end Sys2Proof.Machine
end

