-- ==== Sys2Proof/WellFormed.lean ====
section
/-! DEFINITION. The instructions that have an encoding of their own (30_encoding rule R92). -/

namespace Sys2Proof

/-- The only check the encodings ask for: the row ILLEGAL_RSVD "applies exactly when field r is
nonzero" (opcode_table.json; R92). Every other field admits all its values. -/
def Instr.wellFormed : Instr → Bool
  | .illegalRsvd r _ => r != 0
  | .nop | .count | .build | .gen | .pack | .unpack | .clr => true
  | .illegalOp7 | .illegalOp8F _ => true
  | .rd8 _ | .rd32 _ | .wr8 _ _ | .wr32 _ _ => true

end Sys2Proof
end

