-- ==== Sys2Proof/Decode.lean ====
section
/-! DEFINITION. Decoding and encoding (30_encoding rules R90 to R95). Every 32-bit word is a command
(R92) and the transaction kind has two bits (R95; 93 X11), so both decoders are total and refuse
nothing; only bits that no row of the table describes are refused, by name. -/

namespace Sys2Proof

/-- Field OP, bits 3:0 of a command word (R90). -/
def opField (w : Word) : BitVec 4 := w.extractLsb' 0 4

/-- Field RSVD, bits 31:4 of a command word (R90). -/
def rsvdField (w : Word) : BitVec 28 := w.extractLsb' 4 28

/-- The opcode map of rule R91, for a word whose reserved bits are 0. -/
def decodeOp (op : BitVec 4) : Instr :=
  match op.toNat with
  | 0 => .nop
  | 1 => .count
  | 2 => .build
  | 3 => .gen
  | 4 => .pack
  | 5 => .unpack
  | 6 => .clr
  | 7 => .illegalOp7
  | _ => .illegalOp8F (op.extractLsb' 0 3)

/-- Decoding a command word: reserved bits first, then OP (R92). -/
def decodeCommand (w : Word) : Instr :=
  if rsvdField w = 0 then decodeOp (opField w) else .illegalRsvd (rsvdField w) (opField w)

/-- Decoding a host transaction by its control bits {WRITE, SIZE32} (R95). -/
def decodeTransaction (t : Transaction) : Instr :=
  match t.kind.toNat with
  | 0 => .rd8 t.offset
  | 1 => .rd32 t.offset
  | 2 => .wr8 t.offset (t.data.extractLsb' 0 8)
  | _ => .wr32 t.offset t.data

/-- Decoding either encoded space. -/
def decode : Encoding → Instr
  | .command w => decodeCommand w
  | .transaction t => decodeTransaction t

/-- The encoding of an instruction, from the table of rule R91 and the kinds of rule R95. -/
def encode : Instr → Encoding
  | .nop => .command 0
  | .count => .command 1
  | .build => .command 2
  | .gen => .command 3
  | .pack => .command 4
  | .unpack => .command 5
  | .clr => .command 6
  | .illegalOp7 => .command 7
  | .illegalOp8F o => .command (0#28 ++ (1#1 ++ o))
  | .illegalRsvd r p => .command (r ++ p)
  | .rd8 a => .transaction { kind := 0b00, offset := a, data := 0 }
  | .rd32 a => .transaction { kind := 0b01, offset := a, data := 0 }
  | .wr8 a v => .transaction { kind := 0b10, offset := a, data := v.setWidth 32 }
  | .wr32 a v => .transaction { kind := 0b11, offset := a, data := v }

/-- Why bits are no instruction of the table. -/
inductive DecodeError where
  /-- More bits than a command word (32) or a transaction (72) has. -/
  | tooLong
  /-- A transaction whose kind byte is not 0, 1, 2 or 3: the kind has two bits (93 X11). -/
  | kindNotTwoBits
  deriving DecidableEq, Repr

/-- The number of bits of a command row of the opcode table (R90). -/
def commandBits : Nat := 32

/-- A transaction laid out as one number (log entry 5, DESIGN CHOICE): the kind in bits 1:0 of the
first byte, the offset in bits 39:8, the data lines in bits 71:40. -/
def transactionOfBits (w : Nat) : Transaction :=
  { kind := BitVec.ofNat 2 w, offset := BitVec.ofNat 32 (w / 2 ^ 8), data := BitVec.ofNat 32 (w / 2 ^ 40) }

/-- Decoding the bits of an opcode-table row: 32 bits are a command word, any other row (the bus
kinds, one byte) is a transaction. -/
def decodeBits (nbits w : Nat) : Except DecodeError Instr :=
  if nbits = commandBits then
    if w < 2 ^ 32 then .ok (decodeCommand (BitVec.ofNat 32 w)) else .error .tooLong
  else if 2 ^ 72 ≤ w then .error .tooLong
  else if 4 ≤ w % 2 ^ 8 then .error .kindNotTwoBits
  else .ok (decodeTransaction (transactionOfBits w))

/-- The instruction the decoder reads from a table row's bits (the host's interface). -/
def decodeTableWord (nbits w : Nat) : Option Instr :=
  match decodeBits nbits w with
  | .ok i => some i
  | .error _ => none

end Sys2Proof
end

