-- ==== Sys2Proof/Machine/Fetch.lean ====
section
/-! DEFINITION. What runs next (00_scope rule R16, log entry 1): the head of the schedule, or the core's
turn when the schedule is empty. The block has no program counter (10_state rule R47). -/

namespace Sys2Proof.Machine

/-- What a step is. -/
inductive Fetched where
  /-- It runs this instruction at this state. -/
  | run (i : Instr) (s : State)
  /-- It runs no instruction: this is the state after it. -/
  | settled (s : State)
  deriving DecidableEq, Repr

/-- The core's turn: the completion of the pending command (R211, R212); with none pending the block
is idle and its state persists (R245). -/
def coreTurn (s : State) : Fetched :=
  match s.pending with
  | some w => .run (decodeCommand w) s
  | none => .settled s

/-- The next step, its event taken off the schedule. After the last event the core has its turn, so a
pending command is always completed (R216). -/
def fetch (s : State) : Fetched :=
  match s.schedule with
  | [] => coreTurn s
  | .core :: events => coreTurn { s with schedule := events }
  | .bus t :: events => .run (decodeTransaction t) { s with schedule := events }
  | .reset :: events => .settled (State.resetEvent { s with schedule := events })

/-- The state whose next step runs the instruction with these bits (decodeTableWord's numbering): a
command word is pending and the core has its turn; a transaction is the host's next. -/
def placeWord (s : State) (nbits w : Nat) : State :=
  if nbits = commandBits then
    { s with pending := some (BitVec.ofNat 32 w), schedule := .core :: s.schedule }
  else { s with schedule := .bus (transactionOfBits w) :: s.schedule }

end Sys2Proof.Machine
end

