-- ==== Sys2Proof/Safety.lean ====
section
/-! DEFINITION. What claims are stated in: the end and the cleanness of a run, the tree and code table
invariants of the spec (10_state rules R44 and R45; 41_tree_builder rule R138), the bus errors of
20_memory rule R63, and the invariant every step keeps. -/

namespace Sys2Proof.Machine

/-- A run has ended (70_reset rule R272): the host has nothing more to issue and no command is pending.
DESIGN CHOICE (log entry 20): R272 does not say whether a reset that comes after the host's last
transaction belongs to the run; here it does, since the whole schedule must be empty. -/
def State.ended (s : State) : Bool := s.schedule.isEmpty && !s.busy

/-- No transaction so far was answered with ERROR. "A host program model should treat an ERROR
response as a fault of the run" (R233). -/
def State.clean (s : State) : Bool := s.responses.all (· != .error)

/-- The sizes meet the constraint of rule R8. -/
def State.sizesOk (s : State) : Bool :=
  Config.Params.ok { ibufSize := s.ibufSize, pbufSize := s.pbufSize, dbufSize := s.dbufSize }

/-- Offset `a` is byte i of the buffer from `base` for some i below `size` (R70). -/
def inBuffer (base : Nat) (size : Word) (a : Nat) : Bool :=
  decide (base ≤ a) && decide (a < base + size.toNat)

/-- Offset `a` is a byte of IBUF, PBUF or DBUF (R70). -/
def State.inBuffers (s : State) (a : Nat) : Bool :=
  inBuffer Config.ibufBase s.ibufSize a || inBuffer Config.pbufBase s.pbufSize a
    || inBuffer Config.dbufBase s.dbufSize a

/-- The memory is in canonical form and lists bytes of the three buffers only. -/
def State.memOk (s : State) : Bool := Memory.wf s.mem && s.mem.all fun c => s.inBuffers c.1

/-- The number of sub-causes of an error code (R105). -/
def ErrCode.subCauses : ErrCode → Nat
  | .ok => 0
  | .illegalCmd => 2
  | .inputUnavailable => 2
  | .emptyInput => 1
  | .unknownSymbol => 1
  | .corruptStream => 4
  | .notReady => 2
  | .capacity => 2

/-- LAST_ERR, ERR_SUB and ERR_POS agree (R105): all 0 after a success, a listed sub-cause after an
error. -/
def State.statusOk (s : State) : Bool :=
  if s.lastErr = .ok then s.errSub == 0 && s.errPos == 0
  else decide (1 ≤ s.errSub.toNat) && decide (s.errSub.toNat ≤ s.lastErr.subCauses)

/-- Record n is a leaf of the tree (R38). -/
def isLeaf (nodes : NodeMem) (n : NodeIdx) : Prop :=
  (nodeAt nodes n).valid = true ∧ (nodeAt nodes n).leaf = true

/-- Record n is an internal node of the tree (R38). -/
def isInternal (nodes : NodeMem) (n : NodeIdx) : Prop :=
  (nodeAt nodes n).valid = true ∧ (nodeAt nodes n).leaf = false

/-- Record c is a child of internal record p (R38). -/
def isChild (nodes : NodeMem) (p c : NodeIdx) : Prop :=
  isInternal nodes p ∧ ((nodeAt nodes p).left = c ∨ (nodeAt nodes p).right = c)

/-- The shape of a tree that BUILD leaves (R138), with the record forms of R38 and R39. -/
structure TreeShape (nodes : NodeMem) (root : NodeIdx) : Prop where
  /-- ROOT names an internal record. -/
  root_internal : isInternal nodes root
  /-- A leaf of symbol s is record s, without children. -/
  leaf_form : ∀ n, isLeaf nodes n →
    n.toNat = (nodeAt nodes n).symbol.toNat ∧ (nodeAt nodes n).left = Config.nilIdx
      ∧ (nodeAt nodes n).right = Config.nilIdx
  /-- An internal record is one of 256..510 and holds no symbol. -/
  internal_form : ∀ n, isInternal nodes n →
    256 ≤ n.toNat ∧ n ≠ Config.nilIdx ∧ (nodeAt nodes n).symbol = 0
  /-- A record that is not part of the tree is the invalid record. -/
  invalid_form : ∀ n, (nodeAt nodes n).valid = false → nodeAt nodes n = NodeRecord.invalid
  /-- The left child is a valid record with a lower index (R138 (c)). -/
  left_child : ∀ n, isInternal nodes n →
    (nodeAt nodes (nodeAt nodes n).left).valid = true ∧ (nodeAt nodes n).left.toNat < n.toNat
  /-- So is the right child, where there is one, and it is another record. -/
  right_child : ∀ n, isInternal nodes n → (nodeAt nodes n).right ≠ Config.nilIdx →
    (nodeAt nodes (nodeAt nodes n).right).valid = true ∧ (nodeAt nodes n).right.toNat < n.toNat
      ∧ (nodeAt nodes n).right ≠ (nodeAt nodes n).left
  /-- An internal node with one child is the root, over one leaf (R134, R138 (a)). -/
  one_child : ∀ n, isInternal nodes n → (nodeAt nodes n).right = Config.nilIdx →
    n = root ∧ isLeaf nodes (nodeAt nodes n).left
  /-- Every valid record except ROOT has a parent (R138 (b)). -/
  has_parent : ∀ c, (nodeAt nodes c).valid = true → c ≠ root → ∃ p, isChild nodes p c
  /-- No valid record has two parents (R138 (b)). -/
  one_parent : ∀ p q c, isChild nodes p c → isChild nodes q c → c ≠ Config.nilIdx → p = q
  /-- ROOT has none (R138 (b)). -/
  root_top : ∀ p, ¬ isChild nodes p root
  /-- The weight of an internal node is the sum of its children's (R138 (d)). -/
  weight_sum : ∀ n, isInternal nodes n →
    (nodeAt nodes n).weight.toNat = (nodeAt nodes (nodeAt nodes n).left).weight.toNat
      + (nodeAt nodes (nodeAt nodes n).right).weight.toNat

/-- The node that a bit string leads to from node n, LEFT on 0 and RIGHT on 1; none where a child is
absent (R102, R190). -/
def follow (nodes : NodeMem) : NodeIdx → List Bool → Option NodeIdx
  | n, [] => some n
  | n, b :: bs =>
    let c := if b then (nodeAt nodes n).right else (nodeAt nodes n).left
    if c = Config.nilIdx then none else follow nodes c bs

/-- ROOT, TREE_VALID and NODE agree (R44). -/
def State.treeOk (s : State) : Prop :=
  if s.treeValid then TreeShape s.node s.root
  else s.root = Config.nilIdx ∧ ∀ n, nodeAt s.node n = NodeRecord.invalid

/-- A valid table holds exactly the codes of the tree's leaves, each the path to its leaf (R150, R152,
R154). -/
structure TableOk (nodes : NodeMem) (root : NodeIdx) (t : CodeMem) : Prop where
  /-- A symbol has a code exactly when it has a leaf. -/
  valid_iff : ∀ x : Byte, (codeAt t x).valid = true ↔ isLeaf nodes (x.setWidth 9)
  /-- The code leads from the root to the leaf. -/
  path : ∀ x : Byte, (codeAt t x).valid = true →
    follow nodes root (codeAt t x).bits = some (x.setWidth 9)
  /-- Every code has 1 to 255 bits. -/
  length : ∀ x : Byte, (codeAt t x).valid = true →
    1 ≤ (codeAt t x).bits.length ∧ (codeAt t x).bits.length ≤ 255
  /-- An entry that is not valid is the invalid entry (R40). -/
  invalid_form : ∀ x : Byte, (codeAt t x).valid = false → codeAt t x = CodeEntry.invalid

/-- CT_VALID, MAX_LEN and CTAB agree, and a valid table is the current tree's (R45, R137). -/
def State.codesOk (s : State) : Prop :=
  if s.ctValid then
    s.treeValid = true ∧ TableOk s.node s.root s.ctab
      ∧ (∃ x, (codeAt s.ctab x).valid = true ∧ (codeAt s.ctab x).bits.length = s.maxLen.toNat)
      ∧ ∀ x, (codeAt s.ctab x).valid = true → (codeAt s.ctab x).bits.length ≤ s.maxLen.toNat
  else s.maxLen = 0 ∧ ∀ x, codeAt s.ctab x = CodeEntry.invalid

/-- What every step keeps, and reset has. -/
structure State.Inv (s : State) : Prop where
  /-- R8, R34. -/
  sizes : s.sizesOk = true
  /-- The memory's canonical form, and R70. -/
  mem : s.memOk = true
  /-- R104, R105. -/
  status : s.statusOk = true
  /-- R30: a count 0..256. -/
  nsym : s.nsym.toNat ≤ 256
  /-- R29: OUT_LEN never exceeds DBUF_SIZE. -/
  outLen : s.outLen.toNat ≤ s.dbufSize.toNat
  /-- R38: record 511 is always invalid. -/
  nil : nodeAt s.node Config.nilIdx = NodeRecord.invalid
  /-- R44, R138. -/
  tree : s.treeOk
  /-- R45, R137, R152, R154. -/
  codes : s.codesOk

/-- The registers that WR32 may write (R65). -/
def Reg.writable : Reg → Bool
  | .cmd | .status | .intStatus | .intEnable | .inLen | .pkLen => true
  | .id | .bitLen | .outLen | .nsym | .root | .maxLen | .errPos => false
  | .ibufSize | .pbufSize | .dbufSize => false

/-- The conditions of rule R63 on a 32-bit transaction of the host, by its offset. -/
def State.refused32 (s : State) (write : Bool) (offset : Nat) : Prop :=
  offset % 4 ≠ 0
    ∨ (0x40 ≤ offset ∧ offset < 0x400) ∨ (0x800 ≤ offset ∧ offset < 0x2000)
    ∨ (0x8000 ≤ offset ∧ offset < 0x01000000) ∨ 0x04000000 ≤ offset
    ∨ (0x01000000 ≤ offset ∧ offset < 0x02000000 ∧ s.ibufSize.toNat ≤ offset - 0x01000000)
    ∨ (0x02000000 ≤ offset ∧ offset < 0x03000000 ∧ s.pbufSize.toNat ≤ offset - 0x02000000)
    ∨ (0x03000000 ≤ offset ∧ offset < 0x04000000 ∧ s.dbufSize.toNat ≤ offset - 0x03000000)
    ∨ (write = true ∧ 0x2000 ≤ offset ∧ offset < 0x8000)
    ∨ (write = true ∧ offset < 0x40 ∧ (Reg.ofIndex (offset / 4)).writable = false)
    ∨ (s.pending ≠ none ∧ ¬ (offset < 0x40 ∧ write = false)
        ∧ ¬ (write = true ∧ (offset = 0x008 ∨ offset = 0x00C ∨ offset = 0x010)))

/-- The conditions of rule R63 on an 8-bit transaction of the host, by its offset: only the buffers
admit one (R61). -/
def State.refused8 (s : State) (offset : Nat) : Prop :=
  offset < 0x01000000 ∨ 0x04000000 ≤ offset
    ∨ (0x01000000 ≤ offset ∧ offset < 0x02000000 ∧ s.ibufSize.toNat ≤ offset - 0x01000000)
    ∨ (0x02000000 ≤ offset ∧ offset < 0x03000000 ∧ s.pbufSize.toNat ≤ offset - 0x02000000)
    ∨ (0x03000000 ≤ offset ∧ offset < 0x04000000 ∧ s.dbufSize.toNat ≤ offset - 0x03000000)
    ∨ s.pending ≠ none

/-- The transactions that are bus errors (R63); a command is none. -/
def State.busError (s : State) : Instr → Prop
  | .rd8 a => s.refused8 a.toNat
  | .wr8 a _ => s.refused8 a.toNat
  | .rd32 a => s.refused32 false a.toNat
  | .wr32 a _ => s.refused32 true a.toNat
  | .nop | .count | .build | .gen | .pack | .unpack | .clr => False
  | .illegalOp7 | .illegalOp8F _ | .illegalRsvd _ _ => False

/-- The number of symbols with a nonzero histogram entry, L of rule R130. -/
def symbolCount (h : HistMem) : Nat :=
  ((List.range 256).filter fun x => histAt h (BitVec.ofNat 8 x) != 0).length

/-- The order in which BUILD extracts nodes (R132), read off the records: less weight first, and among
equal weights the lower index, since leaves come in symbol order and before every internal node. -/
def comesBefore (nodes : NodeMem) (a b : NodeIdx) : Prop :=
  (nodeAt nodes a).weight.toNat < (nodeAt nodes b).weight.toNat
    ∨ ((nodeAt nodes a).weight = (nodeAt nodes b).weight ∧ a.toNat < b.toNat)

/-- PBUF and PK_LEN hold an artifact with these logical bits (R97 to R99); its padding is any. -/
def State.holdsArtifact (s : State) (bits : List Bool) : Prop :=
  s.pkLen.toNat = 4 + (bits.length + 7) / 8 ∧ s.pkLen.toNat ≤ s.pbufSize.toNat
    ∧ (s.pbufByte 0).toNat * 2 ^ 24 + (s.pbufByte 1).toNat * 2 ^ 16
        + (s.pbufByte 2).toNat * 2 ^ 8 + (s.pbufByte 3).toNat = bits.length
    ∧ ∀ k, k < bits.length → (s.pbufByte (4 + k / 8)).getLsbD (7 - k % 8) = bits.getD k false

/-- The codes of these symbols in CTAB, concatenated in order (R167). -/
def State.codesOf (s : State) (symbols : List Byte) : List Bool :=
  symbols.flatMap fun b => (codeAt s.ctab b).bits

/-- A command's error completion, written out (R211, R236). -/
def State.failed (s : State) (op : BitVec 4) (code : ErrCode) (sub : BitVec 4) (pos : Word) : State :=
  { s with
    lastOp := op, lastErr := code, errSub := sub, errPos := pos
    errSticky := true, intErr := true, intDone := true, pending := none }

/-- A command's successful completion, written out (R211), on the state with its writes. -/
def State.succeeded (s : State) (op : BitVec 4) : State :=
  { s with lastOp := op, lastErr := .ok, errSub := 0, errPos := 0, intDone := true, pending := none }

end Sys2Proof.Machine
end

