-- ==== Sys2Proof/Certificates/Slice0/Obligations.lean ====
section
/-! DEFINITION. What is claimed of the model, for the provers. Each statement names the rules of spec/ it
formalises; OBLIGATIONS.json lists them. -/

open Sys2Proof Sys2Proof.Machine

/-! ### Encodings (30_encoding.md) -/

/-- Decoding an encoded well-formed instruction gives it back, with every operand at every value
(R90, R91, R92, R95; the layout of a transaction as bits is log entry 5's). -/
def Obligations.DecodeOfEncodeIsIdentity : Prop :=
  ∀ i : Instr, i.wellFormed = true → decode (encode i) = i

/-- Every 32-bit word is one well-formed command and the only encoding of it; the reserved bits are
looked at first, then OP (R92). -/
def Obligations.EveryWordIsOneCommand : Prop :=
  ∀ w : Word,
    (decodeCommand w).wellFormed = true ∧ (decodeCommand w).isCommand = true
      ∧ encode (decodeCommand w) = .command w
      ∧ (w.extractLsb' 4 28 ≠ 0 →
          decodeCommand w = .illegalRsvd (w.extractLsb' 4 28) (w.extractLsb' 0 4))
      ∧ (w.extractLsb' 4 28 = 0 → w.extractLsb' 0 4 = 7 → decodeCommand w = .illegalOp7)
      ∧ (w.extractLsb' 4 28 = 0 → 8 ≤ (w.extractLsb' 0 4).toNat →
          decodeCommand w = .illegalOp8F (w.extractLsb' 0 3))

/-- The words of the opcode map (R91), the reserved OP values (R92), and the kinds of transactions
(R95; WR8 takes its byte from data bits 7:0 by log entry 5). -/
def Obligations.OpcodeMapWords : Prop :=
  decodeCommand 0x00000000 = .nop ∧ decodeCommand 0x00000001 = .count
    ∧ decodeCommand 0x00000002 = .build ∧ decodeCommand 0x00000003 = .gen
    ∧ decodeCommand 0x00000004 = .pack ∧ decodeCommand 0x00000005 = .unpack
    ∧ decodeCommand 0x00000006 = .clr ∧ decodeCommand 0x00000007 = .illegalOp7
    ∧ decodeCommand 0x0000000B = .illegalOp8F 3
    ∧ (∀ o : BitVec 3, decodeCommand (0#28 ++ (1#1 ++ o)) = .illegalOp8F o)
    ∧ decodeCommand 0x80000011 = .illegalRsvd 0x8000001 1
    ∧ (∀ a d, decodeTransaction { kind := 0b00, offset := a, data := d } = .rd8 a)
    ∧ (∀ a d, decodeTransaction { kind := 0b01, offset := a, data := d } = .rd32 a)
    ∧ (∀ a d, decodeTransaction { kind := 0b10, offset := a, data := d } = .wr8 a (d.extractLsb' 0 8))
    ∧ (∀ a d, decodeTransaction { kind := 0b11, offset := a, data := d } = .wr32 a d)

/-! ### Steps (00_scope R16, 45_control R210, R211) -/

/-- A step runs the decoded instruction: the host's next transaction, or the pending command when the
core has its turn, which it also has when the schedule is empty (log entry 1). -/
def Obligations.StepRunsDecodedInstruction : Prop :=
  (∀ (s : State) (t : Transaction) (events : List Event), s.schedule = .bus t :: events →
      step s = exec (decode (.transaction t)) { s with schedule := events })
    ∧ (∀ (s : State) (w : Word) (events : List Event), s.pending = some w → s.schedule = .core :: events →
      step s = exec (decode (.command w)) { s with schedule := events })
    ∧ (∀ (s : State) (w : Word), s.pending = some w → s.schedule = [] →
      step s = exec (decode (.command w)) s)

/-- The steps that run no instruction: with no command pending the core's turn leaves the block idle
(R245), and the reset input gives every register and table its reset value, abandons the pending
command and gives the buffers fresh draws (R260, R261). The schedule is log entry 1's, the draws are log
entry 4's, and what a reset keeps of the model's own fields is log entry 11's. -/
def Obligations.StepWithoutInstruction : Prop :=
  (∀ s : State, s.pending = none → s.schedule = [] → step s = .next s)
    ∧ (∀ (s : State) (events : List Event), s.pending = none → s.schedule = .core :: events →
      step s = .next { s with schedule := events })
    ∧ (∀ (s : State) (events : List Event), s.schedule = .reset :: events → ∃ t, step s = .next t
      ∧ t = { State.resetWith ⟨s.ibufSize, s.pbufSize, s.dbufSize⟩ with
              draws := t.draws, schedule := events, responses := s.responses }
      ∧ t.draws = s.draws + 1 ∧ ∀ a, t.readByte a = Config.bufferDraw t.draws a)

/-- An instruction placed by withFetchWord is the one the next step runs (log entry 10). -/
def Obligations.PlacedWordRunsNext : Prop :=
  ∀ (s : State) (nbits w : Nat) (i : Instr), decodeTableWord nbits w = some i →
    (i.isCommand = false → step (s.withFetchWord nbits w) = exec i s)
      ∧ (i.isCommand = true →
          step (s.withFetchWord nbits w) = exec i { s with pending := some (BitVec.ofNat 32 w) })

/-- The reset values of rule R50, for an instance of any sizes, and that the machine's reset state is
the instance of the default sizes (log entry 6); unwritten bytes read as draws (log entry 4). -/
def Obligations.ResetValues : Prop :=
  State.reset = State.resetWith { ibufSize := 65536, pbufSize := 131072, dbufSize := 65536 }
    ∧ ∀ p : Config.Params, let s := State.resetWith p
      s.pending = none ∧ s.statusWord = 0 ∧ s.intStatusWord = 0 ∧ s.intEnableWord = 0 ∧ s.irq = false
        ∧ s.readReg .id = 0x48554631 ∧ s.readReg .cmd = 0
        ∧ s.inLen = 0 ∧ s.pkLen = 0 ∧ s.bitLen = 0 ∧ s.outLen = 0 ∧ s.nsym = 0 ∧ s.maxLen = 0
        ∧ s.errPos = 0 ∧ s.readReg .root = 0x000001FF
        ∧ s.readReg .ibufSize = p.ibufSize ∧ s.readReg .pbufSize = p.pbufSize
        ∧ s.readReg .dbufSize = p.dbufSize
        ∧ (∀ x, histAt s.hist x = 0)
        ∧ (∀ n, nodeAt s.node n = ⟨0, 0x1FF, 0x1FF, false, false, 0⟩)
        ∧ (∀ x, codeAt s.ctab x = ⟨false, []⟩)
        ∧ (∀ a, s.readByte a = Config.bufferDraw 0 a)

/-- A WR32 to CMD issues the word when no command is pending, whatever the word, and is a bus error
that changes nothing when one is (R210; the responses are kept by log entries 2 and 3). -/
def Obligations.CmdWriteIssuesCommand : Prop :=
  ∀ (s : State) (w : Word),
    (s.pending = none → exec (.wr32 0x004 w) s =
      .next { s with pending := some w, responses := .okay :: s.responses })
    ∧ (s.pending ≠ none → exec (.wr32 0x004 w) s =
      .next { s with responses := .error :: s.responses })

/-- The completion of any command (R211): LAST_OP is bits 3:0 of the word, DONE is set, nothing is
pending; a success leaves LAST_ERR, ERR_SUB and ERR_POS 0 and the two error flags as they were, an
error sets both. -/
def Obligations.CompletionUpdatesStatus : Prop :=
  ∀ (w : Word) (s t : State), exec (decodeCommand w) s = .next t →
    t.lastOp = w.extractLsb' 0 4 ∧ t.intDone = true ∧ t.pending = none
      ∧ (t.lastErr = .ok → t.errSub = 0 ∧ t.errPos = 0 ∧ t.errSticky = s.errSticky ∧ t.intErr = s.intErr)
      ∧ (t.lastErr ≠ .ok → t.errSub ≠ 0 ∧ t.errSticky = true ∧ t.intErr = true)

/-- A command that ends with an error writes nothing but the status fields (R14, R211, R232). -/
def Obligations.ErrorWritesStatusOnly : Prop :=
  ∀ (i : Instr) (s t : State), i.isCommand = true → exec i s = .next t → t.lastErr ≠ .ok →
    t = s.failed t.lastOp t.lastErr t.errSub t.errPos

/-- No command writes IN_LEN, INT_ENABLE, the sizes, what the host has received and will do, or a byte
of IBUF (R26, R41, R83; schedule, draws and responses are the model's own, log entries 1, 3 and 4). -/
def Obligations.CommandsKeepHostState : Prop :=
  ∀ (i : Instr) (s t : State), i.isCommand = true → s.sizesOk = true → exec i s = .next t →
    t.inLen = s.inLen ∧ t.doneEn = s.doneEn ∧ t.errEn = s.errEn
      ∧ t.ibufSize = s.ibufSize ∧ t.pbufSize = s.pbufSize ∧ t.dbufSize = s.dbufSize
      ∧ t.draws = s.draws ∧ t.schedule = s.schedule ∧ t.responses = s.responses
      ∧ ∀ k, k < s.ibufSize.toNat → t.ibufByte k = s.ibufByte k

/-- Only BUILD and CLR write NODE, ROOT and TREE_VALID (R38, R44), and only GEN, BUILD and CLR write
CTAB, CT_VALID and MAX_LEN (R40); every other instruction keeps them, host transactions included. -/
def Obligations.OnlyBuildGenClrWriteTables : Prop :=
  ∀ (i : Instr) (s t : State), exec i s = .next t → i ≠ .build → i ≠ .clr →
    t.node = s.node ∧ t.root = s.root ∧ t.treeValid = s.treeValid
      ∧ (i ≠ .gen → t.ctab = s.ctab ∧ t.ctValid = s.ctValid ∧ t.maxLen = s.maxLen)

/-- No transaction of the host changes or abandons a pending command, and while one is pending a
transaction changes nothing but ERR_STICKY, INT_STATUS, INT_ENABLE and the responses (R74; log entry 3). -/
def Obligations.BusyBlockKeepsState : Prop :=
  ∀ (i : Instr) (s t : State), i.isCommand = false → s.pending ≠ none → exec i s = .next t →
    t = { s with
          errSticky := t.errSticky, intDone := t.intDone, intErr := t.intErr
          doneEn := t.doneEn, errEn := t.errEn, responses := t.responses }

/-- ERR_STICKY is cleared by no instruction but a WR32 to STATUS with bit 16 set (R23, R237). -/
def Obligations.StickyClearedOnlyByWriteOne : Prop :=
  ∀ (i : Instr) (s t : State), exec i s = .next t → s.errSticky = true →
    (t.errSticky = false ↔ ∃ v : Word, i = .wr32 0x008 v ∧ v.getLsbD 16 = true)

/-! ### The invariant, and what follows from it -/

/-- The reset state of every instance within the constraint of R8 meets the invariant. -/
def Obligations.ResetMeetsInvariant : Prop :=
  ∀ p : Config.Params, p.ok = true → (State.resetWith p).Inv

/-- Every step keeps the invariant: the sizes, the memory's form, the status codes, the tree (R44,
R138) and the code table (R45, R137, R152, R154). -/
def Obligations.StepKeepsInvariant : Prop :=
  ∀ s t : State, s.Inv → step s = .next t → t.Inv

/-- No step stops the machine: every command has an outcome (R18, R216). The model's one fault (log entry
7) needs a node memory that breaks the invariant. -/
def Obligations.NoStepStops : Prop :=
  ∀ s : State, s.Inv → ∃ t, step s = .next t

/-- Every run comes to its end (R216, R272): after one step per scheduled event and one more, nothing
is left on the schedule and no command is pending (log entry 1 gives the core its turn at the end; by log
entry 20 a reset still scheduled belongs to the run). -/
def Obligations.EveryRunEnds : Prop :=
  ∀ s : State, s.Inv →
    ∃ t : State, Host.Core.run Sys2Proof.core (s.schedule.length + 1) s = .next t ∧ t.ended = true

/-! ### NOP, CLR, illegal words (45_control.md) -/

/-- NOP completes and writes nothing else (R213). -/
def Obligations.NopCompletes : Prop :=
  ∀ s : State, exec .nop s = .next (s.succeeded 0)

/-- CLR clears the units' state and nothing else (R214). -/
def Obligations.ClrClearsUnits : Prop :=
  ∀ s : State, ∃ t, exec .clr s = .next t
    ∧ (∀ x, histAt t.hist x = 0) ∧ (∀ n, nodeAt t.node n = NodeRecord.invalid)
    ∧ (∀ x, codeAt t.ctab x = CodeEntry.invalid)
    ∧ t = ({ s with
        hist := t.hist, node := t.node, ctab := t.ctab
        root := 0x1FF, treeValid := false, ctValid := false
        nsym := 0, maxLen := 0, bitLen := 0, outLen := 0 } : State).succeeded 6

/-- An illegal word completes with ILLEGAL_CMD, sub-cause 1 when its reserved bits are set and 2
otherwise, the word in ERR_POS and its low four bits in LAST_OP (R215). -/
def Obligations.IllegalWordsReport : Prop :=
  ∀ s : State,
    exec .illegalOp7 s = .next (s.failed 7 .illegalCmd 2 7)
      ∧ (∀ o : BitVec 3, exec (.illegalOp8F o) s =
          .next (s.failed (1#1 ++ o) .illegalCmd 2 (0#28 ++ (1#1 ++ o))))
      ∧ (∀ (r : BitVec 28) (p : BitVec 4), r ≠ 0 →
          exec (.illegalRsvd r p) s = .next (s.failed p .illegalCmd 1 (r ++ p)))

/-! ### COUNT (40_histogram.md) -/

/-- COUNT makes HIST[s] the number of the first IN_LEN bytes of IBUF that are s, and NSYM the number of
nonzero entries, and writes nothing else; IN_LEN beyond IBUF_SIZE is INPUT_UNAVAILABLE 1 (R120). -/
def Obligations.CountBuildsHistogram : Prop :=
  ∀ s : State, s.sizesOk = true →
    (s.ibufSize.toNat < s.inLen.toNat →
      exec .count s = .next (s.failed 1 .inputUnavailable 1 s.inLen))
    ∧ (s.inLen.toNat ≤ s.ibufSize.toNat → ∃ t, exec .count s = .next t
      ∧ (∀ x : Byte, (histAt t.hist x).toNat =
          ((List.range s.inLen.toNat).filter fun k => s.ibufByte k == x).length)
      ∧ t.nsym.toNat = symbolCount t.hist
      ∧ t = ({ s with hist := t.hist, nsym := t.nsym } : State).succeeded 1)

/-- COUNT's result does not depend on the order of the bytes (R121). -/
def Obligations.CountIgnoresByteOrder : Prop :=
  ∀ s s' t t' : State, s'.inLen = s.inLen →
    s.inLen.toNat ≤ s.ibufSize.toNat → s'.inLen.toNat ≤ s'.ibufSize.toNat →
    ((List.range s.inLen.toNat).map s.ibufByte).Perm ((List.range s.inLen.toNat).map s'.ibufByte) →
    exec .count s = .next t → exec .count s' = .next t' →
    t'.hist = t.hist ∧ t'.nsym = t.nsym

/-! ### BUILD (41_tree_builder.md) -/

/-- BUILD on an all-zero histogram fails with EMPTY_INPUT and changes nothing but status (R135). -/
def Obligations.BuildOnEmptyHistogram : Prop :=
  ∀ s : State, (∀ x, histAt s.hist x = 0) → exec .build s = .next (s.failed 2 .emptyInput 1 0)

/-- A successful BUILD writes NODE, ROOT, NSYM and TREE_VALID, invalidates the whole code table (R137),
and writes nothing else. -/
def Obligations.BuildReplacesTreeAndTable : Prop :=
  ∀ s : State, (∃ x, histAt s.hist x ≠ 0) → ∃ t, exec .build s = .next t
    ∧ t.nsym.toNat = symbolCount s.hist
    ∧ t.root.toNat = (if symbolCount s.hist = 1 then 256 else 254 + symbolCount s.hist)
    ∧ (∀ x, codeAt t.ctab x = CodeEntry.invalid)
    ∧ t = ({ s with
        node := t.node, root := t.root, treeValid := true, nsym := t.nsym
        ctab := t.ctab, ctValid := false, maxLen := 0 } : State).succeeded 2

/-- BUILD is a function of HIST alone (R139): two states with the same HIST get the same tree. -/
def Obligations.BuildDependsOnHistogramOnly : Prop :=
  ∀ s s' t t' : State, s'.hist = s.hist → (∃ x, histAt s.hist x ≠ 0) →
    exec .build s = .next t → exec .build s' = .next t' →
    t'.node = t.node ∧ t'.root = t.root ∧ t'.nsym = t.nsym

/-- The valid records after a successful BUILD are the leaves of the counted symbols and the internal
records 256 to 254 + L, or 256 alone when L = 1; every other record is the invalid one (R136). -/
def Obligations.BuildValidRecords : Prop :=
  ∀ s t : State, (∃ x, histAt s.hist x ≠ 0) → exec .build s = .next t → ∀ n : NodeIdx,
    (isLeaf t.node n ↔ ∃ x : Byte, n.toNat = x.toNat ∧ histAt s.hist x ≠ 0)
      ∧ (isInternal t.node n ↔ 256 ≤ n.toNat
          ∧ n.toNat ≤ (if symbolCount s.hist = 1 then 256 else 254 + symbolCount s.hist))
      ∧ ((nodeAt t.node n).valid = false → nodeAt t.node n = NodeRecord.invalid)

/-- The leaf of a counted symbol is its own record, weighing its count (R130, R131). -/
def Obligations.BuildLeafRecords : Prop :=
  ∀ (s t : State) (x : Byte), histAt s.hist x ≠ 0 → exec .build s = .next t →
    nodeAt t.node (x.setWidth 9) = {
      weight := (histAt s.hist x).setWidth 40, left := 0x1FF, right := 0x1FF
      valid := true, leaf := true, symbol := x }

/-- With a single counted symbol the tree is record 256 over its leaf, the leaf LEFT and RIGHT absent,
and GEN then gives the symbol the code "0" (R134). -/
def Obligations.BuildSingleSymbolTree : Prop :=
  ∀ (s : State) (x : Byte), histAt s.hist x ≠ 0 → (∀ y, y ≠ x → histAt s.hist y = 0) →
    ∃ t, exec .build s = .next t ∧ t.root = 256 ∧ isLeaf t.node (x.setWidth 9)
      ∧ nodeAt t.node 256 = {
          weight := (nodeAt t.node (x.setWidth 9)).weight, left := x.setWidth 9, right := 0x1FF
          valid := true, leaf := false, symbol := 0 }
      ∧ (∀ n, n ≠ 256 → n ≠ x.setWidth 9 → nodeAt t.node n = NodeRecord.invalid)
      ∧ ∃ u, exec .gen t = .next u ∧ codeAt u.ctab x = { valid := true, bits := [false] }

/-- The tree BUILD leaves has the shape of rule R138: one tree under ROOT, children below their
parents, two children but in the single-symbol tree, weights that add up. -/
def Obligations.BuildTreeHasShape : Prop :=
  ∀ s t : State, (∃ x, histAt s.hist x ≠ 0) → exec .build s = .next t → TreeShape t.node t.root

/-- ROOT's weight is the sum of all HIST entries, without overflow (R138 (d), R140). -/
def Obligations.BuildRootWeighsHistogram : Prop :=
  ∀ s t : State, (∃ x, histAt s.hist x ≠ 0) → exec .build s = .next t →
    (nodeAt t.node t.root).weight.toNat =
      ((List.range 256).map fun x => (histAt s.hist (BitVec.ofNat 8 x)).toNat).sum

/-- ExtractMin removes exactly one entry, of the least weight, and among those of the least seq (R132). -/
def Obligations.ExtractMinTakesLeast : Prop :=
  ∀ q : List QEntry, q ≠ [] → ∃ m rest, extractMin q = some (m, rest) ∧ (m :: rest).Perm q
    ∧ ∀ e ∈ rest, m.weight.toNat < e.weight.toNat ∨ (m.weight = e.weight ∧ m.seq ≤ e.seq)

/-- BUILD merges greedily with the tie-break of rule R132 and the sides of rule R133: in every merge
LEFT comes before RIGHT, and RIGHT comes before the next merge's LEFT. -/
def Obligations.BuildMergesInOrder : Prop :=
  ∀ s t : State, (∃ x, histAt s.hist x ≠ 0) → exec .build s = .next t → ∀ n : NodeIdx,
    isInternal t.node n → (nodeAt t.node n).right ≠ Config.nilIdx →
    comesBefore t.node (nodeAt t.node n).left (nodeAt t.node n).right
      ∧ ∀ m : NodeIdx, isInternal t.node m → m.toNat = n.toNat + 1 →
          comesBefore t.node (nodeAt t.node n).right (nodeAt t.node m).left

/-! ### GEN (42_code_table.md) -/

/-- GEN without a tree is NOT_READY 1 and changes nothing but status (R150). -/
def Obligations.GenWithoutTree : Prop :=
  ∀ s : State, s.treeValid = false → exec .gen s = .next (s.failed 3 .notReady 1 0)

/-- GEN with a tree gives a code to exactly the symbols that have a leaf, each the path from ROOT to its
leaf (R150, R152), MAX_LEN the greatest length, and writes nothing else. -/
def Obligations.GenCodesAreLeafPaths : Prop :=
  ∀ s : State, s.Inv → s.treeValid = true → ∃ t, exec .gen s = .next t
    ∧ TableOk s.node s.root t.ctab
    ∧ (∃ x, (codeAt t.ctab x).valid = true ∧ (codeAt t.ctab x).bits.length = t.maxLen.toNat)
    ∧ (∀ x, (codeAt t.ctab x).valid = true → (codeAt t.ctab x).bits.length ≤ t.maxLen.toNat)
    ∧ t = ({ s with ctab := t.ctab, ctValid := true, maxLen := t.maxLen } : State).succeeded 3

/-- The valid codes are prefix-free (R153): for two symbols with valid entries, neither code is a prefix
of the other. -/
def Obligations.CodesArePrefixFree : Prop :=
  ∀ s : State, s.Inv → ∀ a b : Byte, a ≠ b →
    (codeAt s.ctab a).valid = true → (codeAt s.ctab b).valid = true →
    ¬ (codeAt s.ctab a).bits <+: (codeAt s.ctab b).bits

/-- The valid codes of a tree with two leaves or more are complete: the sum of 2^(-LEN) is 1; for the
single-symbol tree it is 1/2 (R155). Both sides are multiplied by 2^255. -/
def Obligations.CodesAreComplete : Prop :=
  ∀ s : State, s.Inv → s.ctValid = true →
    ((List.range 256).map fun x =>
      if (codeAt s.ctab (BitVec.ofNat 8 x)).valid
      then 2 ^ (255 - (codeAt s.ctab (BitVec.ofNat 8 x)).bits.length) else 0).sum =
    if (nodeAt s.node s.root).right = Config.nilIdx then 2 ^ 254 else 2 ^ 255

/-! ### PACK (43_packer.md) -/

/-- PACK writes the header and the payload of the concatenated codes, PK_LEN and BIT_LEN, pads with
zeros, and writes nothing else (R165, R167 to R169, R172, R173). -/
def Obligations.PackWritesArtifact : Prop :=
  ∀ (s : State) (bits : List Bool), s.Inv → s.inLen.toNat ≤ s.ibufSize.toNat →
    (∀ k, k < s.inLen.toNat → (codeAt s.ctab (s.ibufByte k)).valid = true) →
    bits = s.codesOf ((List.range s.inLen.toNat).map s.ibufByte) →
    4 + (bits.length + 7) / 8 ≤ s.pbufSize.toNat →
    ∃ t, exec .pack s = .next t ∧ t.holdsArtifact bits ∧ t.bitLen.toNat = bits.length
      ∧ (∀ k, bits.length ≤ k → k < 8 * ((bits.length + 7) / 8) →
          (t.pbufByte (4 + k / 8)).getLsbD (7 - k % 8) = false)
      ∧ (∀ a, a < Config.pbufBase ∨ Config.pbufBase + t.pkLen.toNat ≤ a → t.readByte a = s.readByte a)
      ∧ t = ({ s with mem := t.mem, pkLen := t.pkLen, bitLen := t.bitLen } : State).succeeded 4

/-- PACK reports the first error in the order of rule R235: the length, then the least index whose byte
has no code (R166), then the capacity (R165). -/
def Obligations.PackReportsFirstError : Prop :=
  ∀ s : State, s.sizesOk = true →
    (s.ibufSize.toNat < s.inLen.toNat →
      exec .pack s = .next (s.failed 4 .inputUnavailable 1 s.inLen))
    ∧ (∀ k, s.inLen.toNat ≤ s.ibufSize.toNat → k < s.inLen.toNat →
      (codeAt s.ctab (s.ibufByte k)).valid = false →
      (∀ j, j < k → (codeAt s.ctab (s.ibufByte j)).valid = true) →
      exec .pack s = .next (s.failed 4 .unknownSymbol 1 (BitVec.ofNat 32 k)))
    ∧ (∀ bits, s.inLen.toNat ≤ s.ibufSize.toNat →
      (∀ k, k < s.inLen.toNat → (codeAt s.ctab (s.ibufByte k)).valid = true) →
      bits = s.codesOf ((List.range s.inLen.toNat).map s.ibufByte) →
      s.pbufSize.toNat < 4 + (bits.length + 7) / 8 →
      exec .pack s = .next (s.failed 4 .capacity 1 (BitVec.ofNat 32 (4 + (bits.length + 7) / 8))))

/-- PACK with IN_LEN = 0 succeeds whatever the code table holds, and writes the header 00 00 00 00 and
no payload (R170). -/
def Obligations.PackOfNothing : Prop :=
  ∀ s : State, s.sizesOk = true → s.inLen = 0 → ∃ t, exec .pack s = .next t
    ∧ t.pbufByte 0 = 0 ∧ t.pbufByte 1 = 0 ∧ t.pbufByte 2 = 0 ∧ t.pbufByte 3 = 0
    ∧ (∀ a, a < Config.pbufBase ∨ Config.pbufBase + 4 ≤ a → t.readByte a = s.readByte a)
    ∧ t = ({ s with mem := t.mem, pkLen := 4, bitLen := 0 } : State).succeeded 4

/-- PACK writes no byte at or beyond PK_LEN, and on an error no byte at all (R171). -/
def Obligations.PackKeepsOtherBytes : Prop :=
  ∀ s t : State, exec .pack s = .next t → ∀ a,
    t.lastErr ≠ .ok ∨ a < Config.pbufBase ∨ Config.pbufBase + t.pkLen.toNat ≤ a →
    t.readByte a = s.readByte a

/-! ### UNPACK (44_unpacker.md) -/

/-- The checks UNPACK makes before it reads a bit, in their order (R185, R187, R188, R235). -/
def Obligations.UnpackChecksArtifact : Prop :=
  ∀ (s : State) (b : Nat),
    b = (s.pbufByte 0).toNat * 2 ^ 24 + (s.pbufByte 1).toNat * 2 ^ 16
      + (s.pbufByte 2).toNat * 2 ^ 8 + (s.pbufByte 3).toNat →
    (s.pbufSize.toNat < s.pkLen.toNat →
      exec .unpack s = .next (s.failed 5 .inputUnavailable 2 s.pkLen))
    ∧ (s.pkLen.toNat ≤ s.pbufSize.toNat → s.pkLen.toNat < 4 →
      exec .unpack s = .next (s.failed 5 .corruptStream 1 s.pkLen))
    ∧ (s.pkLen.toNat ≤ s.pbufSize.toNat → 4 ≤ s.pkLen.toNat → s.pkLen.toNat ≠ 4 + (b + 7) / 8 →
      exec .unpack s = .next (s.failed 5 .corruptStream 2 (BitVec.ofNat 32 b)))
    ∧ (s.pkLen.toNat ≤ s.pbufSize.toNat → s.pkLen.toNat = 4 + (b + 7) / 8 → 0 < b →
      s.treeValid = false → exec .unpack s = .next (s.failed 5 .notReady 2 0))

/-- An artifact with B = 0 decodes to zero bytes without a tree (R189). -/
def Obligations.UnpackOfNothing : Prop :=
  ∀ s : State, s.holdsArtifact [] →
    exec .unpack s = .next (({ s with outLen := 0, bitLen := 0 } : State).succeeded 5)

/-- UNPACK writes no byte outside DBUF[0..OUT_LEN-1], on an error no byte at all, and never NODE or ROOT
(R195). -/
def Obligations.UnpackKeepsOtherBytes : Prop :=
  ∀ s t : State, exec .unpack s = .next t → (∀ a,
      t.lastErr ≠ .ok ∨ a < Config.dbufBase ∨ Config.dbufBase + t.outLen.toNat ≤ a →
      t.readByte a = s.readByte a)
    ∧ (t.lastErr = .ok → t = ({ s with
        mem := t.mem, outLen := t.outLen, bitLen := t.bitLen } : State).succeeded 5)
    ∧ t.node = s.node ∧ t.root = s.root

/-- The padding bits do not affect UNPACK's result (R194): two states that differ only in memory, with
the same header and the same B logical bits, get the same outcome and the same output bytes. -/
def Obligations.UnpackIgnoresPadding : Prop :=
  ∀ s s' t t' : State, s' = { s with mem := s'.mem } →
    (∀ k, k < 4 → s'.pbufByte k = s.pbufByte k) →
    (∀ k, k < (s.pbufByte 0).toNat * 2 ^ 24 + (s.pbufByte 1).toNat * 2 ^ 16
        + (s.pbufByte 2).toNat * 2 ^ 8 + (s.pbufByte 3).toNat →
      (s'.pbufByte (4 + k / 8)).getLsbD (7 - k % 8) = (s.pbufByte (4 + k / 8)).getLsbD (7 - k % 8)) →
    exec .unpack s = .next t → exec .unpack s' = .next t' →
    t' = { t with mem := t'.mem }
      ∧ (t.lastErr = .ok → ∀ k, k < t.outLen.toNat → t'.dbufByte k = t.dbufByte k)

/-- UNPACK of the concatenated codes of any symbols gives the symbols, when DBUF has room (R185, R190). -/
def Obligations.UnpackDecodesCodes : Prop :=
  ∀ (s : State) (symbols : List Byte), s.Inv → s.ctValid = true →
    (∀ x ∈ symbols, (codeAt s.ctab x).valid = true) → s.holdsArtifact (s.codesOf symbols) →
    symbols.length ≤ s.dbufSize.toNat → ∃ t, exec .unpack s = .next t
      ∧ t.outLen.toNat = symbols.length ∧ t.bitLen.toNat = (s.codesOf symbols).length
      ∧ (∀ k, k < symbols.length → t.dbufByte k = symbols.getD k 0)
      ∧ (∀ a, a < Config.dbufBase ∨ Config.dbufBase + symbols.length ≤ a → t.readByte a = s.readByte a)
      ∧ t = ({ s with mem := t.mem, outLen := t.outLen, bitLen := t.bitLen } : State).succeeded 5

/-- A bit string that ends in the middle of a code is CORRUPT_STREAM 4 with ERR_POS = B (R192). -/
def Obligations.UnpackMidCode : Prop :=
  ∀ (s : State) (symbols : List Byte) (x : Byte) (part : List Bool), s.Inv → s.ctValid = true →
    (∀ y ∈ symbols, (codeAt s.ctab y).valid = true) → (codeAt s.ctab x).valid = true →
    part <+: (codeAt s.ctab x).bits → part ≠ [] → part ≠ (codeAt s.ctab x).bits →
    s.holdsArtifact (s.codesOf symbols ++ part) → symbols.length ≤ s.dbufSize.toNat →
    exec .unpack s = .next (s.failed 5 .corruptStream 4
      (BitVec.ofNat 32 ((s.codesOf symbols).length + part.length)))

/-- A symbol beyond DBUF_SIZE is CAPACITY 2 with ERR_POS the bit that completed its code (R193). -/
def Obligations.UnpackOutputOverflow : Prop :=
  ∀ (s : State) (symbols : List Byte) (x : Byte) (rest : List Bool), s.Inv → s.ctValid = true →
    (∀ y ∈ symbols, (codeAt s.ctab y).valid = true) → (codeAt s.ctab x).valid = true →
    s.holdsArtifact (s.codesOf symbols ++ (codeAt s.ctab x).bits ++ rest) →
    symbols.length = s.dbufSize.toNat →
    exec .unpack s = .next (s.failed 5 .capacity 2
      (BitVec.ofNat 32 ((s.codesOf symbols).length + (codeAt s.ctab x).bits.length - 1)))

/-- A bit that leads to an absent child is CORRUPT_STREAM 3 with ERR_POS its number: in the
single-symbol tree the first bit 1, in every other tree no bit (R191). -/
def Obligations.UnpackAbsentChild : Prop :=
  ∀ s : State, s.Inv → s.treeValid = true →
    (∀ (k : Nat) (rest : List Bool), (nodeAt s.node s.root).right = Config.nilIdx →
      s.holdsArtifact (List.replicate k false ++ true :: rest) → k ≤ s.dbufSize.toNat →
      exec .unpack s = .next (s.failed 5 .corruptStream 3 (BitVec.ofNat 32 k)))
    ∧ ((nodeAt s.node s.root).right ≠ Config.nilIdx →
      ∀ t, exec .unpack s = .next t → ¬ (t.lastErr = .corruptStream ∧ t.errSub = 3))

/-- The round trip (R196): COUNT, BUILD, GEN and PACK on an input, then UNPACK of the artifact PACK left
against the same tree, give the input back; for the empty input COUNT, PACK and UNPACK alone do, BUILD
failing with EMPTY_INPUT, and GEN, whether it fails or makes a table of an older tree, without effect. -/
def Obligations.RoundTripOfPipeline : Prop :=
  (∀ s s₁ s₂ s₃ s₄ s₅ : State, s.sizesOk = true → s.inLen.toNat ≤ s.dbufSize.toNat →
    exec .count s = .next s₁ → s₁.lastErr = .ok → exec .build s₁ = .next s₂ → s₂.lastErr = .ok →
    exec .gen s₂ = .next s₃ → s₃.lastErr = .ok → exec .pack s₃ = .next s₄ → s₄.lastErr = .ok →
    s₅.pkLen = s₄.pkLen → s₅.node = s₄.node → s₅.root = s₄.root → s₅.treeValid = s₄.treeValid →
    s₅.pbufSize = s₄.pbufSize → s₅.dbufSize = s₄.dbufSize →
    (∀ k, k < s₄.pkLen.toNat → s₅.pbufByte k = s₄.pbufByte k) →
    ∃ t, exec .unpack s₅ = .next t ∧ t.lastErr = .ok ∧ t.outLen = s.inLen
      ∧ ∀ k, k < s.inLen.toNat → t.dbufByte k = s.ibufByte k)
  ∧ (∀ s s₁ s₂ s₃ s₄ s₅ : State, s.sizesOk = true → s.inLen = 0 →
    exec .count s = .next s₁ → exec .build s₁ = .next s₂ →
    s₃ = s₁ ∨ exec .gen s₂ = .next s₃ → exec .pack s₃ = .next s₄ →
    s₅.pkLen = s₄.pkLen → s₅.pbufSize = s₄.pbufSize →
    (∀ k, k < s₄.pkLen.toNat → s₅.pbufByte k = s₄.pbufByte k) →
    s₁.lastErr = .ok ∧ s₂.lastErr = .emptyInput ∧ s₄.lastErr = .ok
      ∧ ∃ t, exec .unpack s₅ = .next t ∧ t.lastErr = .ok ∧ t.outLen = 0)

/-! ### Host transactions (20_memory.md) -/

/-- The transactions rule R63 names are bus errors that change nothing, and no other transaction is
one. The outcome is kept in the response log (log entries 2 and 3). -/
def Obligations.BusErrorsAreExactlyRefused : Prop :=
  ∀ (i : Instr) (s : State), i.isCommand = false →
    (s.busError i → exec i s = .next { s with responses := .error :: s.responses })
    ∧ (¬ s.busError i →
      ∃ t r, exec i s = .next t ∧ t.responses = r :: s.responses ∧ r ≠ .error)

/-- RD32 of each of the sixteen registers, at any time, returns its value and changes nothing else (R20,
R64, R74; log entry 3). -/
def Obligations.RegisterReads : Prop :=
  ∀ s : State, ∀ p ∈ ([
      (0x000, 0x48554631), (0x004, 0), (0x008, s.statusWord), (0x00C, s.intStatusWord),
      (0x010, s.intEnableWord), (0x014, s.inLen), (0x018, s.pkLen), (0x01C, s.bitLen),
      (0x020, s.outLen), (0x024, s.nsym.setWidth 32), (0x028, s.root.setWidth 32),
      (0x02C, s.maxLen.setWidth 32), (0x030, s.errPos), (0x034, s.ibufSize), (0x038, s.pbufSize),
      (0x03C, s.dbufSize)] : List (Word × Word)),
    exec (.rd32 p.1) s = .next { s with responses := .data32 p.2 :: s.responses }

/-- The fields of STATUS, INT_STATUS and INT_ENABLE as read, their reserved bits 0 (R23, R24, R25, R66),
and the codes of rule R104. -/
def Obligations.StatusWordLayout : Prop :=
  (∀ s : State,
    s.statusWord.getLsbD 0 = s.pending.isSome ∧ s.statusWord.getLsbD 1 = s.treeValid
      ∧ s.statusWord.getLsbD 2 = s.ctValid ∧ s.statusWord.getLsbD 3 = false
      ∧ s.statusWord.extractLsb' 4 4 = s.lastErr.bits ∧ s.statusWord.extractLsb' 8 4 = s.lastOp
      ∧ s.statusWord.extractLsb' 12 4 = s.errSub ∧ s.statusWord.getLsbD 16 = s.errSticky
      ∧ s.statusWord.extractLsb' 17 15 = 0
      ∧ s.intStatusWord.getLsbD 0 = s.intDone ∧ s.intStatusWord.getLsbD 1 = s.intErr
      ∧ s.intStatusWord.extractLsb' 2 30 = 0
      ∧ s.intEnableWord.getLsbD 0 = s.doneEn ∧ s.intEnableWord.getLsbD 1 = s.errEn
      ∧ s.intEnableWord.extractLsb' 2 30 = 0)
    ∧ [ErrCode.ok, .illegalCmd, .inputUnavailable, .emptyInput, .unknownSymbol, .corruptStream,
        .notReady, .capacity].map ErrCode.bits = [0, 1, 2, 3, 4, 5, 6, 7]

/-- WR32 to STATUS, INT_STATUS and INT_ENABLE at any time, and to IN_LEN and PK_LEN while no command is
pending (R23 to R27, R65; log entry 3). -/
def Obligations.RegisterWrites : Prop :=
  ∀ (s : State) (v : Word),
    exec (.wr32 0x008 v) s = .next { s with
        errSticky := s.errSticky && !v.getLsbD 16, responses := .okay :: s.responses }
    ∧ exec (.wr32 0x00C v) s = .next { s with
        intDone := s.intDone && !v.getLsbD 0, intErr := s.intErr && !v.getLsbD 1
        responses := .okay :: s.responses }
    ∧ exec (.wr32 0x010 v) s = .next { s with
        doneEn := v.getLsbD 0, errEn := v.getLsbD 1, responses := .okay :: s.responses }
    ∧ (s.pending = none → exec (.wr32 0x014 v) s =
        .next { s with inLen := v, responses := .okay :: s.responses })
    ∧ (s.pending = none → exec (.wr32 0x018 v) s =
        .next { s with pkLen := v, responses := .okay :: s.responses })

/-- The HIST window: RD32 returns HIST[x], WR32 sets it and changes nothing else, both only while no
command is pending (R67; log entry 3). -/
def Obligations.HistWindow : Prop :=
  ∀ (s : State) (x : Byte) (v offset : Word), offset = BitVec.ofNat 32 (0x400 + 4 * x.toNat) →
    (s.pending = none →
      exec (.rd32 offset) s = .next { s with responses := .data32 (histAt s.hist x) :: s.responses }
      ∧ ∃ t, exec (.wr32 offset v) s = .next t ∧ histAt t.hist x = v
        ∧ (∀ y, y ≠ x → histAt t.hist y = histAt s.hist y)
        ∧ t = { s with hist := t.hist, responses := .okay :: s.responses })
    ∧ (s.pending ≠ none →
      exec (.rd32 offset) s = .next { s with responses := .error :: s.responses }
      ∧ exec (.wr32 offset v) s = .next { s with responses := .error :: s.responses })

/-- The NODE window: the four words of record n (R68; log entry 3). -/
def Obligations.NodeWindow : Prop :=
  ∀ (s : State) (n : NodeIdx), s.pending = none → ∃ w₀ w₁ w₂ w₃ : Word,
    exec (.rd32 (BitVec.ofNat 32 (0x2000 + 16 * n.toNat))) s =
      .next { s with responses := .data32 w₀ :: s.responses }
    ∧ exec (.rd32 (BitVec.ofNat 32 (0x2000 + 16 * n.toNat + 4))) s =
      .next { s with responses := .data32 w₁ :: s.responses }
    ∧ exec (.rd32 (BitVec.ofNat 32 (0x2000 + 16 * n.toNat + 8))) s =
      .next { s with responses := .data32 w₂ :: s.responses }
    ∧ exec (.rd32 (BitVec.ofNat 32 (0x2000 + 16 * n.toNat + 12))) s =
      .next { s with responses := .data32 w₃ :: s.responses }
    ∧ w₀ = (nodeAt s.node n).weight.extractLsb' 0 32
    ∧ w₁.extractLsb' 0 8 = (nodeAt s.node n).weight.extractLsb' 32 8 ∧ w₁.extractLsb' 8 24 = 0
    ∧ w₂.extractLsb' 0 9 = (nodeAt s.node n).left ∧ w₂.extractLsb' 9 7 = 0
    ∧ w₂.extractLsb' 16 9 = (nodeAt s.node n).right ∧ w₂.extractLsb' 25 7 = 0
    ∧ w₃.getLsbD 0 = (nodeAt s.node n).valid ∧ w₃.getLsbD 1 = (nodeAt s.node n).leaf
    ∧ w₃.extractLsb' 2 6 = 0 ∧ w₃.extractLsb' 8 8 = (nodeAt s.node n).symbol
    ∧ w₃.extractLsb' 16 16 = 0

/-- The CTAB window: VALID and LEN, the code bits left-aligned with zeros after them, zeros (R69; log
entries 3 and 8). -/
def Obligations.CodeWindow : Prop :=
  ∀ (s : State) (x : Byte), s.pending = none → (codeAt s.ctab x).bits.length ≤ 255 →
    ∃ word : Nat → Word,
      (∀ k, k < 16 → exec (.rd32 (BitVec.ofNat 32 (0x4000 + 64 * x.toNat + 4 * k))) s =
        .next { s with responses := .data32 (word k) :: s.responses })
      ∧ ((word 0).extractLsb' 0 8).toNat = (codeAt s.ctab x).bits.length
      ∧ (word 0).extractLsb' 8 23 = 0 ∧ (word 0).getLsbD 31 = (codeAt s.ctab x).valid
      ∧ (∀ i, i < 256 →
          (word (1 + i / 32)).getLsbD (31 - i % 32) = (codeAt s.ctab x).bits.getD i false)
      ∧ (∀ k, 9 ≤ k → k < 16 → word k = 0)

/-- The buffer windows: byte and word reads and writes of IBUF, PBUF and DBUF, little-endian in the
lanes, each write changing its own bytes and nothing else (R70, R71; log entries 3 and 4). -/
def Obligations.BufferWindows : Prop :=
  ∀ (s : State) (base : Nat) (size offset : Word) (k : Nat), s.sizesOk = true → s.pending = none →
    (base, size) ∈ [(Config.ibufBase, s.ibufSize), (Config.pbufBase, s.pbufSize),
      (Config.dbufBase, s.dbufSize)] →
    k < size.toNat → offset = BitVec.ofNat 32 (base + k) →
    exec (.rd8 offset) s =
        .next { s with responses := .data8 (s.readByte (base + k)) :: s.responses }
    ∧ (∀ v : Byte, ∃ t, exec (.wr8 offset v) s = .next t ∧ t.readByte (base + k) = v
        ∧ (∀ a, a ≠ base + k → t.readByte a = s.readByte a)
        ∧ t = { s with mem := t.mem, responses := .okay :: s.responses })
    ∧ (k % 4 = 0 →
        (∃ w : Word, exec (.rd32 offset) s = .next { s with responses := .data32 w :: s.responses }
          ∧ w.extractLsb' 0 8 = s.readByte (base + k) ∧ w.extractLsb' 8 8 = s.readByte (base + k + 1)
          ∧ w.extractLsb' 16 8 = s.readByte (base + k + 2)
          ∧ w.extractLsb' 24 8 = s.readByte (base + k + 3))
        ∧ ∀ v : Word, ∃ t, exec (.wr32 offset v) s = .next t
          ∧ t.readByte (base + k) = v.extractLsb' 0 8 ∧ t.readByte (base + k + 1) = v.extractLsb' 8 8
          ∧ t.readByte (base + k + 2) = v.extractLsb' 16 8
          ∧ t.readByte (base + k + 3) = v.extractLsb' 24 8
          ∧ (∀ a, a < base + k ∨ base + k + 4 ≤ a → t.readByte a = s.readByte a)
          ∧ t = { s with mem := t.mem, responses := .okay :: s.responses })

/-! ### The interrupt (60_exceptions R238) -/

/-- IRQ is the enabled OR of DONE and ERR at every instant and 0 after reset (R36), and every completion
raises it when DONE is enabled, every one with an error when ERR is (R238). -/
def Obligations.InterruptLevel : Prop :=
  (∀ s : State, s.irq = true ↔
      ((s.readReg .intStatus).getLsbD 0 = true ∧ (s.readReg .intEnable).getLsbD 0 = true)
        ∨ ((s.readReg .intStatus).getLsbD 1 = true ∧ (s.readReg .intEnable).getLsbD 1 = true))
    ∧ State.reset.irq = false
    ∧ ∀ (i : Instr) (s t : State), i.isCommand = true → exec i s = .next t →
      (s.doneEn = true → t.irq = true) ∧ (s.errEn = true → t.lastErr ≠ .ok → t.irq = true)
end

