-- ==== Sys2Proof/Laws/State.lean ====
section
/-! SUPPORT. One lemma per field per update of State, each true by rfl, so that no proof unfolds a record
update. -/

namespace Sys2Proof.Machine

/-! ### State.respond -/

@[simp] theorem State.respond_pending (r : Response) (s : State) : (s.respond r).pending = s.pending := rfl
@[simp] theorem State.respond_treeValid (r : Response) (s : State) : (s.respond r).treeValid = s.treeValid := rfl
@[simp] theorem State.respond_ctValid (r : Response) (s : State) : (s.respond r).ctValid = s.ctValid := rfl
@[simp] theorem State.respond_lastErr (r : Response) (s : State) : (s.respond r).lastErr = s.lastErr := rfl
@[simp] theorem State.respond_lastOp (r : Response) (s : State) : (s.respond r).lastOp = s.lastOp := rfl
@[simp] theorem State.respond_errSub (r : Response) (s : State) : (s.respond r).errSub = s.errSub := rfl
@[simp] theorem State.respond_errSticky (r : Response) (s : State) : (s.respond r).errSticky = s.errSticky := rfl
@[simp] theorem State.respond_intDone (r : Response) (s : State) : (s.respond r).intDone = s.intDone := rfl
@[simp] theorem State.respond_intErr (r : Response) (s : State) : (s.respond r).intErr = s.intErr := rfl
@[simp] theorem State.respond_doneEn (r : Response) (s : State) : (s.respond r).doneEn = s.doneEn := rfl
@[simp] theorem State.respond_errEn (r : Response) (s : State) : (s.respond r).errEn = s.errEn := rfl
@[simp] theorem State.respond_inLen (r : Response) (s : State) : (s.respond r).inLen = s.inLen := rfl
@[simp] theorem State.respond_pkLen (r : Response) (s : State) : (s.respond r).pkLen = s.pkLen := rfl
@[simp] theorem State.respond_bitLen (r : Response) (s : State) : (s.respond r).bitLen = s.bitLen := rfl
@[simp] theorem State.respond_outLen (r : Response) (s : State) : (s.respond r).outLen = s.outLen := rfl
@[simp] theorem State.respond_nsym (r : Response) (s : State) : (s.respond r).nsym = s.nsym := rfl
@[simp] theorem State.respond_root (r : Response) (s : State) : (s.respond r).root = s.root := rfl
@[simp] theorem State.respond_maxLen (r : Response) (s : State) : (s.respond r).maxLen = s.maxLen := rfl
@[simp] theorem State.respond_errPos (r : Response) (s : State) : (s.respond r).errPos = s.errPos := rfl
@[simp] theorem State.respond_ibufSize (r : Response) (s : State) : (s.respond r).ibufSize = s.ibufSize := rfl
@[simp] theorem State.respond_pbufSize (r : Response) (s : State) : (s.respond r).pbufSize = s.pbufSize := rfl
@[simp] theorem State.respond_dbufSize (r : Response) (s : State) : (s.respond r).dbufSize = s.dbufSize := rfl
@[simp] theorem State.respond_hist (r : Response) (s : State) : (s.respond r).hist = s.hist := rfl
@[simp] theorem State.respond_node (r : Response) (s : State) : (s.respond r).node = s.node := rfl
@[simp] theorem State.respond_ctab (r : Response) (s : State) : (s.respond r).ctab = s.ctab := rfl
@[simp] theorem State.respond_mem (r : Response) (s : State) : (s.respond r).mem = s.mem := rfl
@[simp] theorem State.respond_draws (r : Response) (s : State) : (s.respond r).draws = s.draws := rfl
@[simp] theorem State.respond_schedule (r : Response) (s : State) : (s.respond r).schedule = s.schedule := rfl
@[simp] theorem State.respond_responses (r : Response) (s : State) : (s.respond r).responses = r :: s.responses := rfl

/-! ### State.completeOk -/

@[simp] theorem State.completeOk_pending (op : BitVec 4) (s : State) : (s.completeOk op).pending = none := rfl
@[simp] theorem State.completeOk_treeValid (op : BitVec 4) (s : State) : (s.completeOk op).treeValid = s.treeValid := rfl
@[simp] theorem State.completeOk_ctValid (op : BitVec 4) (s : State) : (s.completeOk op).ctValid = s.ctValid := rfl
@[simp] theorem State.completeOk_lastErr (op : BitVec 4) (s : State) : (s.completeOk op).lastErr = .ok := rfl
@[simp] theorem State.completeOk_lastOp (op : BitVec 4) (s : State) : (s.completeOk op).lastOp = op := rfl
@[simp] theorem State.completeOk_errSub (op : BitVec 4) (s : State) : (s.completeOk op).errSub = 0 := rfl
@[simp] theorem State.completeOk_errSticky (op : BitVec 4) (s : State) : (s.completeOk op).errSticky = s.errSticky := rfl
@[simp] theorem State.completeOk_intDone (op : BitVec 4) (s : State) : (s.completeOk op).intDone = true := rfl
@[simp] theorem State.completeOk_intErr (op : BitVec 4) (s : State) : (s.completeOk op).intErr = s.intErr := rfl
@[simp] theorem State.completeOk_doneEn (op : BitVec 4) (s : State) : (s.completeOk op).doneEn = s.doneEn := rfl
@[simp] theorem State.completeOk_errEn (op : BitVec 4) (s : State) : (s.completeOk op).errEn = s.errEn := rfl
@[simp] theorem State.completeOk_inLen (op : BitVec 4) (s : State) : (s.completeOk op).inLen = s.inLen := rfl
@[simp] theorem State.completeOk_pkLen (op : BitVec 4) (s : State) : (s.completeOk op).pkLen = s.pkLen := rfl
@[simp] theorem State.completeOk_bitLen (op : BitVec 4) (s : State) : (s.completeOk op).bitLen = s.bitLen := rfl
@[simp] theorem State.completeOk_outLen (op : BitVec 4) (s : State) : (s.completeOk op).outLen = s.outLen := rfl
@[simp] theorem State.completeOk_nsym (op : BitVec 4) (s : State) : (s.completeOk op).nsym = s.nsym := rfl
@[simp] theorem State.completeOk_root (op : BitVec 4) (s : State) : (s.completeOk op).root = s.root := rfl
@[simp] theorem State.completeOk_maxLen (op : BitVec 4) (s : State) : (s.completeOk op).maxLen = s.maxLen := rfl
@[simp] theorem State.completeOk_errPos (op : BitVec 4) (s : State) : (s.completeOk op).errPos = 0 := rfl
@[simp] theorem State.completeOk_ibufSize (op : BitVec 4) (s : State) : (s.completeOk op).ibufSize = s.ibufSize := rfl
@[simp] theorem State.completeOk_pbufSize (op : BitVec 4) (s : State) : (s.completeOk op).pbufSize = s.pbufSize := rfl
@[simp] theorem State.completeOk_dbufSize (op : BitVec 4) (s : State) : (s.completeOk op).dbufSize = s.dbufSize := rfl
@[simp] theorem State.completeOk_hist (op : BitVec 4) (s : State) : (s.completeOk op).hist = s.hist := rfl
@[simp] theorem State.completeOk_node (op : BitVec 4) (s : State) : (s.completeOk op).node = s.node := rfl
@[simp] theorem State.completeOk_ctab (op : BitVec 4) (s : State) : (s.completeOk op).ctab = s.ctab := rfl
@[simp] theorem State.completeOk_mem (op : BitVec 4) (s : State) : (s.completeOk op).mem = s.mem := rfl
@[simp] theorem State.completeOk_draws (op : BitVec 4) (s : State) : (s.completeOk op).draws = s.draws := rfl
@[simp] theorem State.completeOk_schedule (op : BitVec 4) (s : State) : (s.completeOk op).schedule = s.schedule := rfl
@[simp] theorem State.completeOk_responses (op : BitVec 4) (s : State) : (s.completeOk op).responses = s.responses := rfl

/-! ### State.completeErr -/

@[simp] theorem State.completeErr_pending (op : BitVec 4) (e : CmdError) (s : State) : (s.completeErr op e).pending = none := rfl
@[simp] theorem State.completeErr_treeValid (op : BitVec 4) (e : CmdError) (s : State) : (s.completeErr op e).treeValid = s.treeValid := rfl
@[simp] theorem State.completeErr_ctValid (op : BitVec 4) (e : CmdError) (s : State) : (s.completeErr op e).ctValid = s.ctValid := rfl
@[simp] theorem State.completeErr_lastErr (op : BitVec 4) (e : CmdError) (s : State) : (s.completeErr op e).lastErr = e.code := rfl
@[simp] theorem State.completeErr_lastOp (op : BitVec 4) (e : CmdError) (s : State) : (s.completeErr op e).lastOp = op := rfl
@[simp] theorem State.completeErr_errSub (op : BitVec 4) (e : CmdError) (s : State) : (s.completeErr op e).errSub = e.sub := rfl
@[simp] theorem State.completeErr_errSticky (op : BitVec 4) (e : CmdError) (s : State) : (s.completeErr op e).errSticky = true := rfl
@[simp] theorem State.completeErr_intDone (op : BitVec 4) (e : CmdError) (s : State) : (s.completeErr op e).intDone = true := rfl
@[simp] theorem State.completeErr_intErr (op : BitVec 4) (e : CmdError) (s : State) : (s.completeErr op e).intErr = true := rfl
@[simp] theorem State.completeErr_doneEn (op : BitVec 4) (e : CmdError) (s : State) : (s.completeErr op e).doneEn = s.doneEn := rfl
@[simp] theorem State.completeErr_errEn (op : BitVec 4) (e : CmdError) (s : State) : (s.completeErr op e).errEn = s.errEn := rfl
@[simp] theorem State.completeErr_inLen (op : BitVec 4) (e : CmdError) (s : State) : (s.completeErr op e).inLen = s.inLen := rfl
@[simp] theorem State.completeErr_pkLen (op : BitVec 4) (e : CmdError) (s : State) : (s.completeErr op e).pkLen = s.pkLen := rfl
@[simp] theorem State.completeErr_bitLen (op : BitVec 4) (e : CmdError) (s : State) : (s.completeErr op e).bitLen = s.bitLen := rfl
@[simp] theorem State.completeErr_outLen (op : BitVec 4) (e : CmdError) (s : State) : (s.completeErr op e).outLen = s.outLen := rfl
@[simp] theorem State.completeErr_nsym (op : BitVec 4) (e : CmdError) (s : State) : (s.completeErr op e).nsym = s.nsym := rfl
@[simp] theorem State.completeErr_root (op : BitVec 4) (e : CmdError) (s : State) : (s.completeErr op e).root = s.root := rfl
@[simp] theorem State.completeErr_maxLen (op : BitVec 4) (e : CmdError) (s : State) : (s.completeErr op e).maxLen = s.maxLen := rfl
@[simp] theorem State.completeErr_errPos (op : BitVec 4) (e : CmdError) (s : State) : (s.completeErr op e).errPos = e.pos := rfl
@[simp] theorem State.completeErr_ibufSize (op : BitVec 4) (e : CmdError) (s : State) : (s.completeErr op e).ibufSize = s.ibufSize := rfl
@[simp] theorem State.completeErr_pbufSize (op : BitVec 4) (e : CmdError) (s : State) : (s.completeErr op e).pbufSize = s.pbufSize := rfl
@[simp] theorem State.completeErr_dbufSize (op : BitVec 4) (e : CmdError) (s : State) : (s.completeErr op e).dbufSize = s.dbufSize := rfl
@[simp] theorem State.completeErr_hist (op : BitVec 4) (e : CmdError) (s : State) : (s.completeErr op e).hist = s.hist := rfl
@[simp] theorem State.completeErr_node (op : BitVec 4) (e : CmdError) (s : State) : (s.completeErr op e).node = s.node := rfl
@[simp] theorem State.completeErr_ctab (op : BitVec 4) (e : CmdError) (s : State) : (s.completeErr op e).ctab = s.ctab := rfl
@[simp] theorem State.completeErr_mem (op : BitVec 4) (e : CmdError) (s : State) : (s.completeErr op e).mem = s.mem := rfl
@[simp] theorem State.completeErr_draws (op : BitVec 4) (e : CmdError) (s : State) : (s.completeErr op e).draws = s.draws := rfl
@[simp] theorem State.completeErr_schedule (op : BitVec 4) (e : CmdError) (s : State) : (s.completeErr op e).schedule = s.schedule := rfl
@[simp] theorem State.completeErr_responses (op : BitVec 4) (e : CmdError) (s : State) : (s.completeErr op e).responses = s.responses := rfl

/-! ### State.ackInterrupt -/

@[simp] theorem State.ackInterrupt_pending (v : Word) (s : State) : (s.ackInterrupt v).pending = s.pending := rfl
@[simp] theorem State.ackInterrupt_treeValid (v : Word) (s : State) : (s.ackInterrupt v).treeValid = s.treeValid := rfl
@[simp] theorem State.ackInterrupt_ctValid (v : Word) (s : State) : (s.ackInterrupt v).ctValid = s.ctValid := rfl
@[simp] theorem State.ackInterrupt_lastErr (v : Word) (s : State) : (s.ackInterrupt v).lastErr = s.lastErr := rfl
@[simp] theorem State.ackInterrupt_lastOp (v : Word) (s : State) : (s.ackInterrupt v).lastOp = s.lastOp := rfl
@[simp] theorem State.ackInterrupt_errSub (v : Word) (s : State) : (s.ackInterrupt v).errSub = s.errSub := rfl
@[simp] theorem State.ackInterrupt_errSticky (v : Word) (s : State) : (s.ackInterrupt v).errSticky = s.errSticky := rfl
@[simp] theorem State.ackInterrupt_intDone (v : Word) (s : State) : (s.ackInterrupt v).intDone = (s.intDone && !v.getLsbD 0) := rfl
@[simp] theorem State.ackInterrupt_intErr (v : Word) (s : State) : (s.ackInterrupt v).intErr = (s.intErr && !v.getLsbD 1) := rfl
@[simp] theorem State.ackInterrupt_doneEn (v : Word) (s : State) : (s.ackInterrupt v).doneEn = s.doneEn := rfl
@[simp] theorem State.ackInterrupt_errEn (v : Word) (s : State) : (s.ackInterrupt v).errEn = s.errEn := rfl
@[simp] theorem State.ackInterrupt_inLen (v : Word) (s : State) : (s.ackInterrupt v).inLen = s.inLen := rfl
@[simp] theorem State.ackInterrupt_pkLen (v : Word) (s : State) : (s.ackInterrupt v).pkLen = s.pkLen := rfl
@[simp] theorem State.ackInterrupt_bitLen (v : Word) (s : State) : (s.ackInterrupt v).bitLen = s.bitLen := rfl
@[simp] theorem State.ackInterrupt_outLen (v : Word) (s : State) : (s.ackInterrupt v).outLen = s.outLen := rfl
@[simp] theorem State.ackInterrupt_nsym (v : Word) (s : State) : (s.ackInterrupt v).nsym = s.nsym := rfl
@[simp] theorem State.ackInterrupt_root (v : Word) (s : State) : (s.ackInterrupt v).root = s.root := rfl
@[simp] theorem State.ackInterrupt_maxLen (v : Word) (s : State) : (s.ackInterrupt v).maxLen = s.maxLen := rfl
@[simp] theorem State.ackInterrupt_errPos (v : Word) (s : State) : (s.ackInterrupt v).errPos = s.errPos := rfl
@[simp] theorem State.ackInterrupt_ibufSize (v : Word) (s : State) : (s.ackInterrupt v).ibufSize = s.ibufSize := rfl
@[simp] theorem State.ackInterrupt_pbufSize (v : Word) (s : State) : (s.ackInterrupt v).pbufSize = s.pbufSize := rfl
@[simp] theorem State.ackInterrupt_dbufSize (v : Word) (s : State) : (s.ackInterrupt v).dbufSize = s.dbufSize := rfl
@[simp] theorem State.ackInterrupt_hist (v : Word) (s : State) : (s.ackInterrupt v).hist = s.hist := rfl
@[simp] theorem State.ackInterrupt_node (v : Word) (s : State) : (s.ackInterrupt v).node = s.node := rfl
@[simp] theorem State.ackInterrupt_ctab (v : Word) (s : State) : (s.ackInterrupt v).ctab = s.ctab := rfl
@[simp] theorem State.ackInterrupt_mem (v : Word) (s : State) : (s.ackInterrupt v).mem = s.mem := rfl
@[simp] theorem State.ackInterrupt_draws (v : Word) (s : State) : (s.ackInterrupt v).draws = s.draws := rfl
@[simp] theorem State.ackInterrupt_schedule (v : Word) (s : State) : (s.ackInterrupt v).schedule = s.schedule := rfl
@[simp] theorem State.ackInterrupt_responses (v : Word) (s : State) : (s.ackInterrupt v).responses = s.responses := rfl

/-! ### State.ackSticky -/

@[simp] theorem State.ackSticky_pending (v : Word) (s : State) : (s.ackSticky v).pending = s.pending := rfl
@[simp] theorem State.ackSticky_treeValid (v : Word) (s : State) : (s.ackSticky v).treeValid = s.treeValid := rfl
@[simp] theorem State.ackSticky_ctValid (v : Word) (s : State) : (s.ackSticky v).ctValid = s.ctValid := rfl
@[simp] theorem State.ackSticky_lastErr (v : Word) (s : State) : (s.ackSticky v).lastErr = s.lastErr := rfl
@[simp] theorem State.ackSticky_lastOp (v : Word) (s : State) : (s.ackSticky v).lastOp = s.lastOp := rfl
@[simp] theorem State.ackSticky_errSub (v : Word) (s : State) : (s.ackSticky v).errSub = s.errSub := rfl
@[simp] theorem State.ackSticky_errSticky (v : Word) (s : State) : (s.ackSticky v).errSticky = (s.errSticky && !v.getLsbD 16) := rfl
@[simp] theorem State.ackSticky_intDone (v : Word) (s : State) : (s.ackSticky v).intDone = s.intDone := rfl
@[simp] theorem State.ackSticky_intErr (v : Word) (s : State) : (s.ackSticky v).intErr = s.intErr := rfl
@[simp] theorem State.ackSticky_doneEn (v : Word) (s : State) : (s.ackSticky v).doneEn = s.doneEn := rfl
@[simp] theorem State.ackSticky_errEn (v : Word) (s : State) : (s.ackSticky v).errEn = s.errEn := rfl
@[simp] theorem State.ackSticky_inLen (v : Word) (s : State) : (s.ackSticky v).inLen = s.inLen := rfl
@[simp] theorem State.ackSticky_pkLen (v : Word) (s : State) : (s.ackSticky v).pkLen = s.pkLen := rfl
@[simp] theorem State.ackSticky_bitLen (v : Word) (s : State) : (s.ackSticky v).bitLen = s.bitLen := rfl
@[simp] theorem State.ackSticky_outLen (v : Word) (s : State) : (s.ackSticky v).outLen = s.outLen := rfl
@[simp] theorem State.ackSticky_nsym (v : Word) (s : State) : (s.ackSticky v).nsym = s.nsym := rfl
@[simp] theorem State.ackSticky_root (v : Word) (s : State) : (s.ackSticky v).root = s.root := rfl
@[simp] theorem State.ackSticky_maxLen (v : Word) (s : State) : (s.ackSticky v).maxLen = s.maxLen := rfl
@[simp] theorem State.ackSticky_errPos (v : Word) (s : State) : (s.ackSticky v).errPos = s.errPos := rfl
@[simp] theorem State.ackSticky_ibufSize (v : Word) (s : State) : (s.ackSticky v).ibufSize = s.ibufSize := rfl
@[simp] theorem State.ackSticky_pbufSize (v : Word) (s : State) : (s.ackSticky v).pbufSize = s.pbufSize := rfl
@[simp] theorem State.ackSticky_dbufSize (v : Word) (s : State) : (s.ackSticky v).dbufSize = s.dbufSize := rfl
@[simp] theorem State.ackSticky_hist (v : Word) (s : State) : (s.ackSticky v).hist = s.hist := rfl
@[simp] theorem State.ackSticky_node (v : Word) (s : State) : (s.ackSticky v).node = s.node := rfl
@[simp] theorem State.ackSticky_ctab (v : Word) (s : State) : (s.ackSticky v).ctab = s.ctab := rfl
@[simp] theorem State.ackSticky_mem (v : Word) (s : State) : (s.ackSticky v).mem = s.mem := rfl
@[simp] theorem State.ackSticky_draws (v : Word) (s : State) : (s.ackSticky v).draws = s.draws := rfl
@[simp] theorem State.ackSticky_schedule (v : Word) (s : State) : (s.ackSticky v).schedule = s.schedule := rfl
@[simp] theorem State.ackSticky_responses (v : Word) (s : State) : (s.ackSticky v).responses = s.responses := rfl

/-! ### State.writeBytes -/

@[simp] theorem State.writeBytes_pending (s : State) (a : Nat) (vs : List Byte) : (s.writeBytes a vs).pending = s.pending := rfl
@[simp] theorem State.writeBytes_treeValid (s : State) (a : Nat) (vs : List Byte) : (s.writeBytes a vs).treeValid = s.treeValid := rfl
@[simp] theorem State.writeBytes_ctValid (s : State) (a : Nat) (vs : List Byte) : (s.writeBytes a vs).ctValid = s.ctValid := rfl
@[simp] theorem State.writeBytes_lastErr (s : State) (a : Nat) (vs : List Byte) : (s.writeBytes a vs).lastErr = s.lastErr := rfl
@[simp] theorem State.writeBytes_lastOp (s : State) (a : Nat) (vs : List Byte) : (s.writeBytes a vs).lastOp = s.lastOp := rfl
@[simp] theorem State.writeBytes_errSub (s : State) (a : Nat) (vs : List Byte) : (s.writeBytes a vs).errSub = s.errSub := rfl
@[simp] theorem State.writeBytes_errSticky (s : State) (a : Nat) (vs : List Byte) : (s.writeBytes a vs).errSticky = s.errSticky := rfl
@[simp] theorem State.writeBytes_intDone (s : State) (a : Nat) (vs : List Byte) : (s.writeBytes a vs).intDone = s.intDone := rfl
@[simp] theorem State.writeBytes_intErr (s : State) (a : Nat) (vs : List Byte) : (s.writeBytes a vs).intErr = s.intErr := rfl
@[simp] theorem State.writeBytes_doneEn (s : State) (a : Nat) (vs : List Byte) : (s.writeBytes a vs).doneEn = s.doneEn := rfl
@[simp] theorem State.writeBytes_errEn (s : State) (a : Nat) (vs : List Byte) : (s.writeBytes a vs).errEn = s.errEn := rfl
@[simp] theorem State.writeBytes_inLen (s : State) (a : Nat) (vs : List Byte) : (s.writeBytes a vs).inLen = s.inLen := rfl
@[simp] theorem State.writeBytes_pkLen (s : State) (a : Nat) (vs : List Byte) : (s.writeBytes a vs).pkLen = s.pkLen := rfl
@[simp] theorem State.writeBytes_bitLen (s : State) (a : Nat) (vs : List Byte) : (s.writeBytes a vs).bitLen = s.bitLen := rfl
@[simp] theorem State.writeBytes_outLen (s : State) (a : Nat) (vs : List Byte) : (s.writeBytes a vs).outLen = s.outLen := rfl
@[simp] theorem State.writeBytes_nsym (s : State) (a : Nat) (vs : List Byte) : (s.writeBytes a vs).nsym = s.nsym := rfl
@[simp] theorem State.writeBytes_root (s : State) (a : Nat) (vs : List Byte) : (s.writeBytes a vs).root = s.root := rfl
@[simp] theorem State.writeBytes_maxLen (s : State) (a : Nat) (vs : List Byte) : (s.writeBytes a vs).maxLen = s.maxLen := rfl
@[simp] theorem State.writeBytes_errPos (s : State) (a : Nat) (vs : List Byte) : (s.writeBytes a vs).errPos = s.errPos := rfl
@[simp] theorem State.writeBytes_ibufSize (s : State) (a : Nat) (vs : List Byte) : (s.writeBytes a vs).ibufSize = s.ibufSize := rfl
@[simp] theorem State.writeBytes_pbufSize (s : State) (a : Nat) (vs : List Byte) : (s.writeBytes a vs).pbufSize = s.pbufSize := rfl
@[simp] theorem State.writeBytes_dbufSize (s : State) (a : Nat) (vs : List Byte) : (s.writeBytes a vs).dbufSize = s.dbufSize := rfl
@[simp] theorem State.writeBytes_hist (s : State) (a : Nat) (vs : List Byte) : (s.writeBytes a vs).hist = s.hist := rfl
@[simp] theorem State.writeBytes_node (s : State) (a : Nat) (vs : List Byte) : (s.writeBytes a vs).node = s.node := rfl
@[simp] theorem State.writeBytes_ctab (s : State) (a : Nat) (vs : List Byte) : (s.writeBytes a vs).ctab = s.ctab := rfl
@[simp] theorem State.writeBytes_mem (s : State) (a : Nat) (vs : List Byte) : (s.writeBytes a vs).mem = Memory.writeBytes s.mem a vs := rfl
@[simp] theorem State.writeBytes_draws (s : State) (a : Nat) (vs : List Byte) : (s.writeBytes a vs).draws = s.draws := rfl
@[simp] theorem State.writeBytes_schedule (s : State) (a : Nat) (vs : List Byte) : (s.writeBytes a vs).schedule = s.schedule := rfl
@[simp] theorem State.writeBytes_responses (s : State) (a : Nat) (vs : List Byte) : (s.writeBytes a vs).responses = s.responses := rfl

/-! ### State.cleared -/

@[simp] theorem State.cleared_pending (s : State) : s.cleared.pending = s.pending := rfl
@[simp] theorem State.cleared_treeValid (s : State) : s.cleared.treeValid = false := rfl
@[simp] theorem State.cleared_ctValid (s : State) : s.cleared.ctValid = false := rfl
@[simp] theorem State.cleared_lastErr (s : State) : s.cleared.lastErr = s.lastErr := rfl
@[simp] theorem State.cleared_lastOp (s : State) : s.cleared.lastOp = s.lastOp := rfl
@[simp] theorem State.cleared_errSub (s : State) : s.cleared.errSub = s.errSub := rfl
@[simp] theorem State.cleared_errSticky (s : State) : s.cleared.errSticky = s.errSticky := rfl
@[simp] theorem State.cleared_intDone (s : State) : s.cleared.intDone = s.intDone := rfl
@[simp] theorem State.cleared_intErr (s : State) : s.cleared.intErr = s.intErr := rfl
@[simp] theorem State.cleared_doneEn (s : State) : s.cleared.doneEn = s.doneEn := rfl
@[simp] theorem State.cleared_errEn (s : State) : s.cleared.errEn = s.errEn := rfl
@[simp] theorem State.cleared_inLen (s : State) : s.cleared.inLen = s.inLen := rfl
@[simp] theorem State.cleared_pkLen (s : State) : s.cleared.pkLen = s.pkLen := rfl
@[simp] theorem State.cleared_bitLen (s : State) : s.cleared.bitLen = 0 := rfl
@[simp] theorem State.cleared_outLen (s : State) : s.cleared.outLen = 0 := rfl
@[simp] theorem State.cleared_nsym (s : State) : s.cleared.nsym = 0 := rfl
@[simp] theorem State.cleared_root (s : State) : s.cleared.root = Config.nilIdx := rfl
@[simp] theorem State.cleared_maxLen (s : State) : s.cleared.maxLen = 0 := rfl
@[simp] theorem State.cleared_errPos (s : State) : s.cleared.errPos = s.errPos := rfl
@[simp] theorem State.cleared_ibufSize (s : State) : s.cleared.ibufSize = s.ibufSize := rfl
@[simp] theorem State.cleared_pbufSize (s : State) : s.cleared.pbufSize = s.pbufSize := rfl
@[simp] theorem State.cleared_dbufSize (s : State) : s.cleared.dbufSize = s.dbufSize := rfl
@[simp] theorem State.cleared_hist (s : State) : s.cleared.hist = emptyHist := rfl
@[simp] theorem State.cleared_node (s : State) : s.cleared.node = emptyNodes := rfl
@[simp] theorem State.cleared_ctab (s : State) : s.cleared.ctab = emptyCodes := rfl
@[simp] theorem State.cleared_mem (s : State) : s.cleared.mem = s.mem := rfl
@[simp] theorem State.cleared_draws (s : State) : s.cleared.draws = s.draws := rfl
@[simp] theorem State.cleared_schedule (s : State) : s.cleared.schedule = s.schedule := rfl
@[simp] theorem State.cleared_responses (s : State) : s.cleared.responses = s.responses := rfl

/-! ### State.withTable -/

@[simp] theorem State.withTable_pending (s : State) (t : CodeMem) : (s.withTable t).pending = s.pending := rfl
@[simp] theorem State.withTable_treeValid (s : State) (t : CodeMem) : (s.withTable t).treeValid = s.treeValid := rfl
@[simp] theorem State.withTable_ctValid (s : State) (t : CodeMem) : (s.withTable t).ctValid = true := rfl
@[simp] theorem State.withTable_lastErr (s : State) (t : CodeMem) : (s.withTable t).lastErr = s.lastErr := rfl
@[simp] theorem State.withTable_lastOp (s : State) (t : CodeMem) : (s.withTable t).lastOp = s.lastOp := rfl
@[simp] theorem State.withTable_errSub (s : State) (t : CodeMem) : (s.withTable t).errSub = s.errSub := rfl
@[simp] theorem State.withTable_errSticky (s : State) (t : CodeMem) : (s.withTable t).errSticky = s.errSticky := rfl
@[simp] theorem State.withTable_intDone (s : State) (t : CodeMem) : (s.withTable t).intDone = s.intDone := rfl
@[simp] theorem State.withTable_intErr (s : State) (t : CodeMem) : (s.withTable t).intErr = s.intErr := rfl
@[simp] theorem State.withTable_doneEn (s : State) (t : CodeMem) : (s.withTable t).doneEn = s.doneEn := rfl
@[simp] theorem State.withTable_errEn (s : State) (t : CodeMem) : (s.withTable t).errEn = s.errEn := rfl
@[simp] theorem State.withTable_inLen (s : State) (t : CodeMem) : (s.withTable t).inLen = s.inLen := rfl
@[simp] theorem State.withTable_pkLen (s : State) (t : CodeMem) : (s.withTable t).pkLen = s.pkLen := rfl
@[simp] theorem State.withTable_bitLen (s : State) (t : CodeMem) : (s.withTable t).bitLen = s.bitLen := rfl
@[simp] theorem State.withTable_outLen (s : State) (t : CodeMem) : (s.withTable t).outLen = s.outLen := rfl
@[simp] theorem State.withTable_nsym (s : State) (t : CodeMem) : (s.withTable t).nsym = s.nsym := rfl
@[simp] theorem State.withTable_root (s : State) (t : CodeMem) : (s.withTable t).root = s.root := rfl
@[simp] theorem State.withTable_maxLen (s : State) (t : CodeMem) : (s.withTable t).maxLen = BitVec.ofNat 8 (greatestLen t) := rfl
@[simp] theorem State.withTable_errPos (s : State) (t : CodeMem) : (s.withTable t).errPos = s.errPos := rfl
@[simp] theorem State.withTable_ibufSize (s : State) (t : CodeMem) : (s.withTable t).ibufSize = s.ibufSize := rfl
@[simp] theorem State.withTable_pbufSize (s : State) (t : CodeMem) : (s.withTable t).pbufSize = s.pbufSize := rfl
@[simp] theorem State.withTable_dbufSize (s : State) (t : CodeMem) : (s.withTable t).dbufSize = s.dbufSize := rfl
@[simp] theorem State.withTable_hist (s : State) (t : CodeMem) : (s.withTable t).hist = s.hist := rfl
@[simp] theorem State.withTable_node (s : State) (t : CodeMem) : (s.withTable t).node = s.node := rfl
@[simp] theorem State.withTable_ctab (s : State) (t : CodeMem) : (s.withTable t).ctab = t := rfl
@[simp] theorem State.withTable_mem (s : State) (t : CodeMem) : (s.withTable t).mem = s.mem := rfl
@[simp] theorem State.withTable_draws (s : State) (t : CodeMem) : (s.withTable t).draws = s.draws := rfl
@[simp] theorem State.withTable_schedule (s : State) (t : CodeMem) : (s.withTable t).schedule = s.schedule := rfl
@[simp] theorem State.withTable_responses (s : State) (t : CodeMem) : (s.withTable t).responses = s.responses := rfl

/-! ### State.withArtifact -/

@[simp] theorem State.withArtifact_pending (s : State) (bits : List Bool) : (s.withArtifact bits).pending = s.pending := rfl
@[simp] theorem State.withArtifact_treeValid (s : State) (bits : List Bool) : (s.withArtifact bits).treeValid = s.treeValid := rfl
@[simp] theorem State.withArtifact_ctValid (s : State) (bits : List Bool) : (s.withArtifact bits).ctValid = s.ctValid := rfl
@[simp] theorem State.withArtifact_lastErr (s : State) (bits : List Bool) : (s.withArtifact bits).lastErr = s.lastErr := rfl
@[simp] theorem State.withArtifact_lastOp (s : State) (bits : List Bool) : (s.withArtifact bits).lastOp = s.lastOp := rfl
@[simp] theorem State.withArtifact_errSub (s : State) (bits : List Bool) : (s.withArtifact bits).errSub = s.errSub := rfl
@[simp] theorem State.withArtifact_errSticky (s : State) (bits : List Bool) : (s.withArtifact bits).errSticky = s.errSticky := rfl
@[simp] theorem State.withArtifact_intDone (s : State) (bits : List Bool) : (s.withArtifact bits).intDone = s.intDone := rfl
@[simp] theorem State.withArtifact_intErr (s : State) (bits : List Bool) : (s.withArtifact bits).intErr = s.intErr := rfl
@[simp] theorem State.withArtifact_doneEn (s : State) (bits : List Bool) : (s.withArtifact bits).doneEn = s.doneEn := rfl
@[simp] theorem State.withArtifact_errEn (s : State) (bits : List Bool) : (s.withArtifact bits).errEn = s.errEn := rfl
@[simp] theorem State.withArtifact_inLen (s : State) (bits : List Bool) : (s.withArtifact bits).inLen = s.inLen := rfl
@[simp] theorem State.withArtifact_pkLen (s : State) (bits : List Bool) : (s.withArtifact bits).pkLen = BitVec.ofNat 32 (4 + ceil8 bits.length) := rfl
@[simp] theorem State.withArtifact_bitLen (s : State) (bits : List Bool) : (s.withArtifact bits).bitLen = BitVec.ofNat 32 bits.length := rfl
@[simp] theorem State.withArtifact_outLen (s : State) (bits : List Bool) : (s.withArtifact bits).outLen = s.outLen := rfl
@[simp] theorem State.withArtifact_nsym (s : State) (bits : List Bool) : (s.withArtifact bits).nsym = s.nsym := rfl
@[simp] theorem State.withArtifact_root (s : State) (bits : List Bool) : (s.withArtifact bits).root = s.root := rfl
@[simp] theorem State.withArtifact_maxLen (s : State) (bits : List Bool) : (s.withArtifact bits).maxLen = s.maxLen := rfl
@[simp] theorem State.withArtifact_errPos (s : State) (bits : List Bool) : (s.withArtifact bits).errPos = s.errPos := rfl
@[simp] theorem State.withArtifact_ibufSize (s : State) (bits : List Bool) : (s.withArtifact bits).ibufSize = s.ibufSize := rfl
@[simp] theorem State.withArtifact_pbufSize (s : State) (bits : List Bool) : (s.withArtifact bits).pbufSize = s.pbufSize := rfl
@[simp] theorem State.withArtifact_dbufSize (s : State) (bits : List Bool) : (s.withArtifact bits).dbufSize = s.dbufSize := rfl
@[simp] theorem State.withArtifact_hist (s : State) (bits : List Bool) : (s.withArtifact bits).hist = s.hist := rfl
@[simp] theorem State.withArtifact_node (s : State) (bits : List Bool) : (s.withArtifact bits).node = s.node := rfl
@[simp] theorem State.withArtifact_ctab (s : State) (bits : List Bool) : (s.withArtifact bits).ctab = s.ctab := rfl
@[simp] theorem State.withArtifact_mem (s : State) (bits : List Bool) : (s.withArtifact bits).mem = Memory.writeBytes s.mem Config.pbufBase (artifact bits) := rfl
@[simp] theorem State.withArtifact_draws (s : State) (bits : List Bool) : (s.withArtifact bits).draws = s.draws := rfl
@[simp] theorem State.withArtifact_schedule (s : State) (bits : List Bool) : (s.withArtifact bits).schedule = s.schedule := rfl
@[simp] theorem State.withArtifact_responses (s : State) (bits : List Bool) : (s.withArtifact bits).responses = s.responses := rfl

/-! ### State.withOutput -/

@[simp] theorem State.withOutput_pending (s : State) (out : List Byte) (n : Nat) : (s.withOutput out n).pending = s.pending := rfl
@[simp] theorem State.withOutput_treeValid (s : State) (out : List Byte) (n : Nat) : (s.withOutput out n).treeValid = s.treeValid := rfl
@[simp] theorem State.withOutput_ctValid (s : State) (out : List Byte) (n : Nat) : (s.withOutput out n).ctValid = s.ctValid := rfl
@[simp] theorem State.withOutput_lastErr (s : State) (out : List Byte) (n : Nat) : (s.withOutput out n).lastErr = s.lastErr := rfl
@[simp] theorem State.withOutput_lastOp (s : State) (out : List Byte) (n : Nat) : (s.withOutput out n).lastOp = s.lastOp := rfl
@[simp] theorem State.withOutput_errSub (s : State) (out : List Byte) (n : Nat) : (s.withOutput out n).errSub = s.errSub := rfl
@[simp] theorem State.withOutput_errSticky (s : State) (out : List Byte) (n : Nat) : (s.withOutput out n).errSticky = s.errSticky := rfl
@[simp] theorem State.withOutput_intDone (s : State) (out : List Byte) (n : Nat) : (s.withOutput out n).intDone = s.intDone := rfl
@[simp] theorem State.withOutput_intErr (s : State) (out : List Byte) (n : Nat) : (s.withOutput out n).intErr = s.intErr := rfl
@[simp] theorem State.withOutput_doneEn (s : State) (out : List Byte) (n : Nat) : (s.withOutput out n).doneEn = s.doneEn := rfl
@[simp] theorem State.withOutput_errEn (s : State) (out : List Byte) (n : Nat) : (s.withOutput out n).errEn = s.errEn := rfl
@[simp] theorem State.withOutput_inLen (s : State) (out : List Byte) (n : Nat) : (s.withOutput out n).inLen = s.inLen := rfl
@[simp] theorem State.withOutput_pkLen (s : State) (out : List Byte) (n : Nat) : (s.withOutput out n).pkLen = s.pkLen := rfl
@[simp] theorem State.withOutput_bitLen (s : State) (out : List Byte) (n : Nat) : (s.withOutput out n).bitLen = BitVec.ofNat 32 n := rfl
@[simp] theorem State.withOutput_outLen (s : State) (out : List Byte) (n : Nat) : (s.withOutput out n).outLen = BitVec.ofNat 32 out.length := rfl
@[simp] theorem State.withOutput_nsym (s : State) (out : List Byte) (n : Nat) : (s.withOutput out n).nsym = s.nsym := rfl
@[simp] theorem State.withOutput_root (s : State) (out : List Byte) (n : Nat) : (s.withOutput out n).root = s.root := rfl
@[simp] theorem State.withOutput_maxLen (s : State) (out : List Byte) (n : Nat) : (s.withOutput out n).maxLen = s.maxLen := rfl
@[simp] theorem State.withOutput_errPos (s : State) (out : List Byte) (n : Nat) : (s.withOutput out n).errPos = s.errPos := rfl
@[simp] theorem State.withOutput_ibufSize (s : State) (out : List Byte) (n : Nat) : (s.withOutput out n).ibufSize = s.ibufSize := rfl
@[simp] theorem State.withOutput_pbufSize (s : State) (out : List Byte) (n : Nat) : (s.withOutput out n).pbufSize = s.pbufSize := rfl
@[simp] theorem State.withOutput_dbufSize (s : State) (out : List Byte) (n : Nat) : (s.withOutput out n).dbufSize = s.dbufSize := rfl
@[simp] theorem State.withOutput_hist (s : State) (out : List Byte) (n : Nat) : (s.withOutput out n).hist = s.hist := rfl
@[simp] theorem State.withOutput_node (s : State) (out : List Byte) (n : Nat) : (s.withOutput out n).node = s.node := rfl
@[simp] theorem State.withOutput_ctab (s : State) (out : List Byte) (n : Nat) : (s.withOutput out n).ctab = s.ctab := rfl
@[simp] theorem State.withOutput_mem (s : State) (out : List Byte) (n : Nat) : (s.withOutput out n).mem = Memory.writeBytes s.mem Config.dbufBase out := rfl
@[simp] theorem State.withOutput_draws (s : State) (out : List Byte) (n : Nat) : (s.withOutput out n).draws = s.draws := rfl
@[simp] theorem State.withOutput_schedule (s : State) (out : List Byte) (n : Nat) : (s.withOutput out n).schedule = s.schedule := rfl
@[simp] theorem State.withOutput_responses (s : State) (out : List Byte) (n : Nat) : (s.withOutput out n).responses = s.responses := rfl

/-! ### State.succeeded -/

@[simp] theorem State.succeeded_pending (op : BitVec 4) (s : State) : (s.succeeded op).pending = none := rfl
@[simp] theorem State.succeeded_treeValid (op : BitVec 4) (s : State) : (s.succeeded op).treeValid = s.treeValid := rfl
@[simp] theorem State.succeeded_ctValid (op : BitVec 4) (s : State) : (s.succeeded op).ctValid = s.ctValid := rfl
@[simp] theorem State.succeeded_lastErr (op : BitVec 4) (s : State) : (s.succeeded op).lastErr = .ok := rfl
@[simp] theorem State.succeeded_lastOp (op : BitVec 4) (s : State) : (s.succeeded op).lastOp = op := rfl
@[simp] theorem State.succeeded_errSub (op : BitVec 4) (s : State) : (s.succeeded op).errSub = 0 := rfl
@[simp] theorem State.succeeded_errSticky (op : BitVec 4) (s : State) : (s.succeeded op).errSticky = s.errSticky := rfl
@[simp] theorem State.succeeded_intDone (op : BitVec 4) (s : State) : (s.succeeded op).intDone = true := rfl
@[simp] theorem State.succeeded_intErr (op : BitVec 4) (s : State) : (s.succeeded op).intErr = s.intErr := rfl
@[simp] theorem State.succeeded_doneEn (op : BitVec 4) (s : State) : (s.succeeded op).doneEn = s.doneEn := rfl
@[simp] theorem State.succeeded_errEn (op : BitVec 4) (s : State) : (s.succeeded op).errEn = s.errEn := rfl
@[simp] theorem State.succeeded_inLen (op : BitVec 4) (s : State) : (s.succeeded op).inLen = s.inLen := rfl
@[simp] theorem State.succeeded_pkLen (op : BitVec 4) (s : State) : (s.succeeded op).pkLen = s.pkLen := rfl
@[simp] theorem State.succeeded_bitLen (op : BitVec 4) (s : State) : (s.succeeded op).bitLen = s.bitLen := rfl
@[simp] theorem State.succeeded_outLen (op : BitVec 4) (s : State) : (s.succeeded op).outLen = s.outLen := rfl
@[simp] theorem State.succeeded_nsym (op : BitVec 4) (s : State) : (s.succeeded op).nsym = s.nsym := rfl
@[simp] theorem State.succeeded_root (op : BitVec 4) (s : State) : (s.succeeded op).root = s.root := rfl
@[simp] theorem State.succeeded_maxLen (op : BitVec 4) (s : State) : (s.succeeded op).maxLen = s.maxLen := rfl
@[simp] theorem State.succeeded_errPos (op : BitVec 4) (s : State) : (s.succeeded op).errPos = 0 := rfl
@[simp] theorem State.succeeded_ibufSize (op : BitVec 4) (s : State) : (s.succeeded op).ibufSize = s.ibufSize := rfl
@[simp] theorem State.succeeded_pbufSize (op : BitVec 4) (s : State) : (s.succeeded op).pbufSize = s.pbufSize := rfl
@[simp] theorem State.succeeded_dbufSize (op : BitVec 4) (s : State) : (s.succeeded op).dbufSize = s.dbufSize := rfl
@[simp] theorem State.succeeded_hist (op : BitVec 4) (s : State) : (s.succeeded op).hist = s.hist := rfl
@[simp] theorem State.succeeded_node (op : BitVec 4) (s : State) : (s.succeeded op).node = s.node := rfl
@[simp] theorem State.succeeded_ctab (op : BitVec 4) (s : State) : (s.succeeded op).ctab = s.ctab := rfl
@[simp] theorem State.succeeded_mem (op : BitVec 4) (s : State) : (s.succeeded op).mem = s.mem := rfl
@[simp] theorem State.succeeded_draws (op : BitVec 4) (s : State) : (s.succeeded op).draws = s.draws := rfl
@[simp] theorem State.succeeded_schedule (op : BitVec 4) (s : State) : (s.succeeded op).schedule = s.schedule := rfl
@[simp] theorem State.succeeded_responses (op : BitVec 4) (s : State) : (s.succeeded op).responses = s.responses := rfl

/-! ### State.failed -/

@[simp] theorem State.failed_pending (op : BitVec 4) (c : ErrCode) (sub : BitVec 4) (pos : Word) (s : State) : (s.failed op c sub pos).pending = none := rfl
@[simp] theorem State.failed_treeValid (op : BitVec 4) (c : ErrCode) (sub : BitVec 4) (pos : Word) (s : State) : (s.failed op c sub pos).treeValid = s.treeValid := rfl
@[simp] theorem State.failed_ctValid (op : BitVec 4) (c : ErrCode) (sub : BitVec 4) (pos : Word) (s : State) : (s.failed op c sub pos).ctValid = s.ctValid := rfl
@[simp] theorem State.failed_lastErr (op : BitVec 4) (c : ErrCode) (sub : BitVec 4) (pos : Word) (s : State) : (s.failed op c sub pos).lastErr = c := rfl
@[simp] theorem State.failed_lastOp (op : BitVec 4) (c : ErrCode) (sub : BitVec 4) (pos : Word) (s : State) : (s.failed op c sub pos).lastOp = op := rfl
@[simp] theorem State.failed_errSub (op : BitVec 4) (c : ErrCode) (sub : BitVec 4) (pos : Word) (s : State) : (s.failed op c sub pos).errSub = sub := rfl
@[simp] theorem State.failed_errSticky (op : BitVec 4) (c : ErrCode) (sub : BitVec 4) (pos : Word) (s : State) : (s.failed op c sub pos).errSticky = true := rfl
@[simp] theorem State.failed_intDone (op : BitVec 4) (c : ErrCode) (sub : BitVec 4) (pos : Word) (s : State) : (s.failed op c sub pos).intDone = true := rfl
@[simp] theorem State.failed_intErr (op : BitVec 4) (c : ErrCode) (sub : BitVec 4) (pos : Word) (s : State) : (s.failed op c sub pos).intErr = true := rfl
@[simp] theorem State.failed_doneEn (op : BitVec 4) (c : ErrCode) (sub : BitVec 4) (pos : Word) (s : State) : (s.failed op c sub pos).doneEn = s.doneEn := rfl
@[simp] theorem State.failed_errEn (op : BitVec 4) (c : ErrCode) (sub : BitVec 4) (pos : Word) (s : State) : (s.failed op c sub pos).errEn = s.errEn := rfl
@[simp] theorem State.failed_inLen (op : BitVec 4) (c : ErrCode) (sub : BitVec 4) (pos : Word) (s : State) : (s.failed op c sub pos).inLen = s.inLen := rfl
@[simp] theorem State.failed_pkLen (op : BitVec 4) (c : ErrCode) (sub : BitVec 4) (pos : Word) (s : State) : (s.failed op c sub pos).pkLen = s.pkLen := rfl
@[simp] theorem State.failed_bitLen (op : BitVec 4) (c : ErrCode) (sub : BitVec 4) (pos : Word) (s : State) : (s.failed op c sub pos).bitLen = s.bitLen := rfl
@[simp] theorem State.failed_outLen (op : BitVec 4) (c : ErrCode) (sub : BitVec 4) (pos : Word) (s : State) : (s.failed op c sub pos).outLen = s.outLen := rfl
@[simp] theorem State.failed_nsym (op : BitVec 4) (c : ErrCode) (sub : BitVec 4) (pos : Word) (s : State) : (s.failed op c sub pos).nsym = s.nsym := rfl
@[simp] theorem State.failed_root (op : BitVec 4) (c : ErrCode) (sub : BitVec 4) (pos : Word) (s : State) : (s.failed op c sub pos).root = s.root := rfl
@[simp] theorem State.failed_maxLen (op : BitVec 4) (c : ErrCode) (sub : BitVec 4) (pos : Word) (s : State) : (s.failed op c sub pos).maxLen = s.maxLen := rfl
@[simp] theorem State.failed_errPos (op : BitVec 4) (c : ErrCode) (sub : BitVec 4) (pos : Word) (s : State) : (s.failed op c sub pos).errPos = pos := rfl
@[simp] theorem State.failed_ibufSize (op : BitVec 4) (c : ErrCode) (sub : BitVec 4) (pos : Word) (s : State) : (s.failed op c sub pos).ibufSize = s.ibufSize := rfl
@[simp] theorem State.failed_pbufSize (op : BitVec 4) (c : ErrCode) (sub : BitVec 4) (pos : Word) (s : State) : (s.failed op c sub pos).pbufSize = s.pbufSize := rfl
@[simp] theorem State.failed_dbufSize (op : BitVec 4) (c : ErrCode) (sub : BitVec 4) (pos : Word) (s : State) : (s.failed op c sub pos).dbufSize = s.dbufSize := rfl
@[simp] theorem State.failed_hist (op : BitVec 4) (c : ErrCode) (sub : BitVec 4) (pos : Word) (s : State) : (s.failed op c sub pos).hist = s.hist := rfl
@[simp] theorem State.failed_node (op : BitVec 4) (c : ErrCode) (sub : BitVec 4) (pos : Word) (s : State) : (s.failed op c sub pos).node = s.node := rfl
@[simp] theorem State.failed_ctab (op : BitVec 4) (c : ErrCode) (sub : BitVec 4) (pos : Word) (s : State) : (s.failed op c sub pos).ctab = s.ctab := rfl
@[simp] theorem State.failed_mem (op : BitVec 4) (c : ErrCode) (sub : BitVec 4) (pos : Word) (s : State) : (s.failed op c sub pos).mem = s.mem := rfl
@[simp] theorem State.failed_draws (op : BitVec 4) (c : ErrCode) (sub : BitVec 4) (pos : Word) (s : State) : (s.failed op c sub pos).draws = s.draws := rfl
@[simp] theorem State.failed_schedule (op : BitVec 4) (c : ErrCode) (sub : BitVec 4) (pos : Word) (s : State) : (s.failed op c sub pos).schedule = s.schedule := rfl
@[simp] theorem State.failed_responses (op : BitVec 4) (c : ErrCode) (sub : BitVec 4) (pos : Word) (s : State) : (s.failed op c sub pos).responses = s.responses := rfl

/-! ### State.resetEvent -/

@[simp] theorem State.resetEvent_pending (s : State) : s.resetEvent.pending = none := rfl
@[simp] theorem State.resetEvent_treeValid (s : State) : s.resetEvent.treeValid = false := rfl
@[simp] theorem State.resetEvent_ctValid (s : State) : s.resetEvent.ctValid = false := rfl
@[simp] theorem State.resetEvent_lastErr (s : State) : s.resetEvent.lastErr = .ok := rfl
@[simp] theorem State.resetEvent_lastOp (s : State) : s.resetEvent.lastOp = 0 := rfl
@[simp] theorem State.resetEvent_errSub (s : State) : s.resetEvent.errSub = 0 := rfl
@[simp] theorem State.resetEvent_errSticky (s : State) : s.resetEvent.errSticky = false := rfl
@[simp] theorem State.resetEvent_intDone (s : State) : s.resetEvent.intDone = false := rfl
@[simp] theorem State.resetEvent_intErr (s : State) : s.resetEvent.intErr = false := rfl
@[simp] theorem State.resetEvent_doneEn (s : State) : s.resetEvent.doneEn = false := rfl
@[simp] theorem State.resetEvent_errEn (s : State) : s.resetEvent.errEn = false := rfl
@[simp] theorem State.resetEvent_inLen (s : State) : s.resetEvent.inLen = 0 := rfl
@[simp] theorem State.resetEvent_pkLen (s : State) : s.resetEvent.pkLen = 0 := rfl
@[simp] theorem State.resetEvent_bitLen (s : State) : s.resetEvent.bitLen = 0 := rfl
@[simp] theorem State.resetEvent_outLen (s : State) : s.resetEvent.outLen = 0 := rfl
@[simp] theorem State.resetEvent_nsym (s : State) : s.resetEvent.nsym = 0 := rfl
@[simp] theorem State.resetEvent_root (s : State) : s.resetEvent.root = Config.nilIdx := rfl
@[simp] theorem State.resetEvent_maxLen (s : State) : s.resetEvent.maxLen = 0 := rfl
@[simp] theorem State.resetEvent_errPos (s : State) : s.resetEvent.errPos = 0 := rfl
@[simp] theorem State.resetEvent_ibufSize (s : State) : s.resetEvent.ibufSize = s.ibufSize := rfl
@[simp] theorem State.resetEvent_pbufSize (s : State) : s.resetEvent.pbufSize = s.pbufSize := rfl
@[simp] theorem State.resetEvent_dbufSize (s : State) : s.resetEvent.dbufSize = s.dbufSize := rfl
@[simp] theorem State.resetEvent_hist (s : State) : s.resetEvent.hist = emptyHist := rfl
@[simp] theorem State.resetEvent_node (s : State) : s.resetEvent.node = emptyNodes := rfl
@[simp] theorem State.resetEvent_ctab (s : State) : s.resetEvent.ctab = emptyCodes := rfl
@[simp] theorem State.resetEvent_mem (s : State) : s.resetEvent.mem = [] := rfl
@[simp] theorem State.resetEvent_draws (s : State) : s.resetEvent.draws = s.draws + 1 := rfl
@[simp] theorem State.resetEvent_schedule (s : State) : s.resetEvent.schedule = s.schedule := rfl
@[simp] theorem State.resetEvent_responses (s : State) : s.resetEvent.responses = s.responses := rfl

/-! ### The two forms of a completion -/

@[simp] theorem State.complete_ok (op : BitVec 4) (s t : State) : s.complete op (.ok t) = t.succeeded op := rfl

@[simp] theorem State.complete_error (op : BitVec 4) (s : State) (e : CmdError) :
    s.complete op (.error e) = s.failed op e.code e.sub e.pos := rfl

@[simp] theorem State.answerWrite_some (s t : State) :
    s.answerWrite (some t) = { t with responses := .okay :: t.responses } := rfl

@[simp] theorem State.answerWrite_none (s : State) :
    s.answerWrite none = { s with responses := .error :: s.responses } := rfl

theorem State.respond_eq (r : Response) (s : State) :
    s.respond r = { s with responses := r :: s.responses } := rfl

theorem State.busy_iff (s : State) : s.busy = true ↔ s.pending ≠ none := by
  cases h : s.pending <;> simp [State.busy, h]

theorem State.busy_false_iff (s : State) : s.busy = false ↔ s.pending = none := by
  cases h : s.pending <;> simp [State.busy, h]

end Sys2Proof.Machine
end

