-- ==== Sys2Proof/Laws/Bits.lean ====
section
/-! SUPPORT. Bit strings, bytes and words: the number a bit string spells, the payload bytes, the two byte
orders. -/

namespace Sys2Proof.Machine

/-! ### Concatenations (R10) -/

theorem extract_low {m n : Nat} (x : BitVec m) (y : BitVec n) : (x ++ y).extractLsb' 0 n = y := by
  apply BitVec.eq_of_getLsbD_eq
  intro i hi
  simp [BitVec.getLsbD_append, hi]

theorem extract_high {m n : Nat} (x : BitVec m) (y : BitVec n) : (x ++ y).extractLsb' n m = x := by
  apply BitVec.eq_of_getLsbD_eq
  intro i hi
  simp [BitVec.getLsbD_append, hi]

theorem extract_parts {m n : Nat} (w : BitVec (m + n)) : w.extractLsb' n m ++ w.extractLsb' 0 n = w := by
  apply BitVec.eq_of_getLsbD_eq
  intro i hi
  rw [BitVec.getLsbD_append]
  by_cases h : i < n
  · simp [h]
  · have h₁ : i - n < m := by omega
    have h₂ : n + (i - n) = i := by omega
    simp [h, h₁, h₂]

/-- The fields of a command word with reserved bits `r` and low bits `p` (R90). -/
theorem command_fields (r : BitVec 28) (p : BitVec 4) :
    opField (r ++ p) = p ∧ rsvdField (r ++ p) = r := ⟨extract_low r p, extract_high r p⟩

/-- A command word is its two fields (R90). -/
theorem command_word (w : Word) : rsvdField w ++ opField w = w := extract_parts (m := 28) (n := 4) w

/-! ### Bit strings -/

theorem msbFirst_append (l : List Bool) (b : Bool) : msbFirst (l ++ [b]) = 2 * msbFirst l + b.toNat := by
  simp [msbFirst]

/-- Bit i of the number is the i-th from the end of the string. -/
theorem testBit_msbFirst (l : List Bool) (i : Nat) (h : i < l.length) :
    (msbFirst l).testBit i = l[l.length - 1 - i]'(by omega) := by
  induction l using List.reverseRecOn generalizing i with
  | nil => simp at h
  | append_singleton l b ih =>
    rw [msbFirst_append]
    cases i with
    | zero => cases b <;> simp [Nat.testBit_zero]
    | succ i =>
      simp only [List.length_append, List.length_singleton] at h
      have h₁ : (2 * msbFirst l + b.toNat) / 2 = msbFirst l := by cases b <;> simp; omega
      rw [Nat.testBit_succ, h₁, ih i (by omega)]
      have h₂ : (l ++ [b]).length - 1 - (i + 1) = l.length - 1 - i := by simp; omega
      simp only [h₂]
      rw [List.getElem_append_left]

@[simp] theorem bitsFrom_length (l : List Bool) (a n : Nat) : (bitsFrom l a n).length = n := by
  simp [bitsFrom]

/-- Payload byte j holds bits 8j to 8j+7, the first in its bit 7 (R168). -/
theorem payloadByte_bit (l : List Bool) (j u : Nat) (h : u < 8) :
    (payloadByte l j).getLsbD (7 - u) = l.getD (8 * j + u) false := by
  rw [payloadByte, BitVec.getLsbD_ofNat, testBit_msbFirst _ _ (by simp; omega)]
  have h₁ : 7 - u < 8 := by omega
  have h₂ : 8 - 1 - (7 - u) = u := by omega
  simp [h₁, bitsFrom, h₂]

@[simp] theorem payload_length (l : List Bool) : (payload l).length = ceil8 l.length := by
  simp [payload]

@[simp] theorem artifact_length (l : List Bool) : (artifact l).length = 4 + ceil8 l.length := by
  simp [artifact, bytesBE]
  omega

/-- The four bytes of the header spell the word (R98). -/
theorem bytesBE_value (v : Word) :
    (v.extractLsb' 24 8).toNat * 2 ^ 24 + (v.extractLsb' 16 8).toNat * 2 ^ 16
      + (v.extractLsb' 8 8).toNat * 2 ^ 8 + (v.extractLsb' 0 8).toNat = v.toNat := by
  have := v.isLt
  simp only [BitVec.extractLsb'_toNat, Nat.shiftRight_eq_div_pow]
  omega

/-- ceil8 is the least k with n ≤ 8k (R12). -/
theorem ceil8_spec (n : Nat) : n ≤ 8 * ceil8 n ∧ 8 * ceil8 n < n + 8 := by
  unfold ceil8
  omega

end Sys2Proof.Machine
end

