-- ==== Sys2Proof/Laws/Memory.lean ====
section
/-! SUPPORT. Memory: a read after a write, what a write leaves alone, and that every memory operation keeps
the canonical form. -/

namespace Sys2Proof.Machine

theorem Memory.lookup_write_same (m : Memory) (a : Nat) (v : Byte) :
    Memory.lookup (Memory.write m a v) a = some v := by
  induction m with
  | nil => simp [Memory.write, Memory.lookup]
  | cons c m ih =>
    obtain ⟨k, w⟩ := c
    by_cases h₁ : a < k
    · simp [Memory.write, h₁, Memory.lookup]
    · by_cases h₂ : a = k
      · simp [Memory.write, h₂, Memory.lookup]
      · simp [Memory.write, h₁, h₂, Memory.lookup, Ne.symm h₂, ih]

theorem Memory.lookup_write_other (m : Memory) {a b : Nat} (v : Byte) (h : b ≠ a) :
    Memory.lookup (Memory.write m a v) b = Memory.lookup m b := by
  induction m with
  | nil => simp [Memory.write, Memory.lookup, Ne.symm h]
  | cons c m ih =>
    obtain ⟨k, w⟩ := c
    by_cases h₁ : a < k
    · simp [Memory.write, h₁, Memory.lookup, Ne.symm h]
    · by_cases h₂ : a = k
      · subst h₂
        simp [Memory.write, Memory.lookup, Ne.symm h]
      · simp [Memory.write, h₁, h₂, Memory.lookup, ih]

/-- The byte at an offset after consecutive bytes are written: the one written there, or the old one. -/
theorem Memory.lookup_writeBytes (m : Memory) (a b : Nat) (vs : List Byte) :
    Memory.lookup (Memory.writeBytes m a vs) b =
      if h : a ≤ b ∧ b < a + vs.length then some (vs[b - a]'(by omega)) else Memory.lookup m b := by
  induction vs generalizing m a with
  | nil =>
    rw [dif_neg (by simp only [List.length_nil]; omega), Memory.writeBytes]
  | cons v vs ih =>
    rw [Memory.writeBytes, ih]
    by_cases h₁ : a + 1 ≤ b ∧ b < a + 1 + vs.length
    · have h₂ : a ≤ b ∧ b < a + (v :: vs).length := by simp only [List.length_cons]; omega
      rw [dif_pos h₁, dif_pos h₂]
      have h₃ : b - a = b - (a + 1) + 1 := by omega
      simp [h₃]
    · rw [dif_neg h₁]
      by_cases h₂ : b = a
      · subst h₂
        rw [dif_pos (by simp only [List.length_cons]; omega), Memory.lookup_write_same]
        simp
      · rw [dif_neg (by simp only [List.length_cons]; omega), Memory.lookup_write_other _ _ h₂]

/-- A property of every listed offset survives a write at an offset that has it. -/
theorem Memory.forall_write {P : Nat → Prop} (m : Memory) {a : Nat} (v : Byte)
    (hm : ∀ c ∈ m, P c.1) (ha : P a) : ∀ c ∈ Memory.write m a v, P c.1 := by
  induction m with
  | nil => simpa [Memory.write] using ha
  | cons c m ih =>
    obtain ⟨k, w⟩ := c
    simp only [List.mem_cons, forall_eq_or_imp] at hm
    by_cases h₁ : a < k
    · simpa [Memory.write, h₁, hm.1, ha] using hm.2
    · by_cases h₂ : a = k
      · simpa [Memory.write, h₁, h₂, hm.1] using hm.2
      · simpa [Memory.write, h₁, h₂, hm.1] using ih hm.2

theorem Memory.forall_writeBytes {P : Nat → Prop} (m : Memory) (a : Nat) (vs : List Byte)
    (hm : ∀ c ∈ m, P c.1) (ha : ∀ b, a ≤ b → b < a + vs.length → P b) :
    ∀ c ∈ Memory.writeBytes m a vs, P c.1 := by
  induction vs generalizing m a with
  | nil => exact hm
  | cons v vs ih =>
    refine ih _ _ (Memory.forall_write m v hm (ha a (by omega) (by simp))) ?_
    intro b h₁ h₂
    exact ha b (by omega) (by simp only [List.length_cons]; omega)

/-- The canonical form says that the offsets are strictly rising. -/
theorem Memory.wf_cons {k : Nat} {w : Byte} {m : Memory} :
    Memory.wf ((k, w) :: m) = true ↔ (∀ c ∈ m, k < c.1) ∧ Memory.wf m = true := by
  induction m generalizing k w with
  | nil => simp [Memory.wf]
  | cons c m ih =>
    obtain ⟨l, x⟩ := c
    rw [Memory.wf, Bool.and_eq_true, decide_eq_true_eq, ih]
    constructor
    · rintro ⟨h₁, h₂, h₃⟩
      refine ⟨?_, h₂, h₃⟩
      intro c hc
      rcases List.mem_cons.1 hc with rfl | hc
      · exact h₁
      · exact lt_trans h₁ (h₂ c hc)
    · rintro ⟨h₁, h₂, h₃⟩
      exact ⟨h₁ (l, x) (by simp), h₂, h₃⟩

/-- A write keeps the canonical form. -/
theorem Memory.wf_write (m : Memory) (a : Nat) (v : Byte) (h : Memory.wf m = true) :
    Memory.wf (Memory.write m a v) = true := by
  induction m with
  | nil => simp [Memory.write, Memory.wf]
  | cons c m ih =>
    obtain ⟨k, w⟩ := c
    have hc := Memory.wf_cons.1 h
    by_cases h₁ : a < k
    · rw [Memory.write, if_pos h₁]
      refine Memory.wf_cons.2 ⟨?_, h⟩
      intro c hm
      rcases List.mem_cons.1 hm with rfl | hm
      · exact h₁
      · exact lt_trans h₁ (hc.1 c hm)
    · by_cases h₂ : a = k
      · subst h₂
        rw [Memory.write, if_neg h₁, if_pos rfl]
        exact Memory.wf_cons.2 hc
      · rw [Memory.write, if_neg h₁, if_neg h₂]
        refine Memory.wf_cons.2 ⟨?_, ih hc.2⟩
        exact Memory.forall_write (P := (k < ·)) m v hc.1 (by omega)

/-- So do writes of consecutive bytes: every memory operation keeps the canonical form. -/
theorem Memory.wf_writeBytes (m : Memory) (a : Nat) (vs : List Byte) (h : Memory.wf m = true) :
    Memory.wf (Memory.writeBytes m a vs) = true := by
  induction vs generalizing m a with
  | nil => exact h
  | cons v vs ih => exact ih _ _ (Memory.wf_write m a v h)

theorem Memory.wf_reset : Memory.wf State.reset.mem = true := rfl

/-- The byte a state reads depends on the memory and the draws alone. -/
theorem State.readByte_congr {s t : State} (hm : t.mem = s.mem) (hd : t.draws = s.draws) (a : Nat) :
    t.readByte a = s.readByte a := by
  simp [State.readByte, hm, hd]

/-- Reading after consecutive bytes are written. -/
theorem State.readByte_writeBytes (s : State) (a b : Nat) (vs : List Byte) :
    (s.writeBytes a vs).readByte b =
      if h : a ≤ b ∧ b < a + vs.length then vs[b - a]'(by omega) else s.readByte b := by
  simp only [State.readByte, State.writeBytes_mem, State.writeBytes_draws, Memory.lookup_writeBytes]
  split <;> simp

theorem State.readByte_writeBytes_outside (s : State) {a b : Nat} (vs : List Byte)
    (h : b < a ∨ a + vs.length ≤ b) : (s.writeBytes a vs).readByte b = s.readByte b := by
  rw [State.readByte_writeBytes, dif_neg (by omega)]

theorem State.readByte_writeBytes_inside (s : State) (a k : Nat) (vs : List Byte) (h : k < vs.length) :
    (s.writeBytes a vs).readByte (a + k) = vs[k] := by
  rw [State.readByte_writeBytes, dif_pos (by omega)]
  simp

end Sys2Proof.Machine
end

