-- ==== Sys2Proof/Laws/Bus.lean ====
section
/-! SUPPORT. What the address map gives, and everything a host transaction can do. -/

namespace Sys2Proof.Machine

@[simp] theorem inBuffer_iff (base : Nat) (size : Word) (a : Nat) :
    inBuffer base size a = true ↔ base ≤ a ∧ a < base + size.toNat := by
  simp [inBuffer]

theorem State.inBuffers_iff (s : State) (a : Nat) :
    s.inBuffers a = true ↔ (Config.ibufBase ≤ a ∧ a < Config.ibufBase + s.ibufSize.toNat)
      ∨ (Config.pbufBase ≤ a ∧ a < Config.pbufBase + s.pbufSize.toNat)
      ∨ (Config.dbufBase ≤ a ∧ a < Config.dbufBase + s.dbufSize.toNat) := by
  simp [State.inBuffers, or_assoc]

@[simp] theorem sizeOk_iff (size : Word) :
    Config.sizeOk size = true ↔ size.toNat % 4 = 0 ∧ 4 ≤ size.toNat ∧ size.toNat ≤ 2 ^ 24 := by
  simp [Config.sizeOk, and_assoc]

theorem State.sizesOk_iff (s : State) :
    s.sizesOk = true ↔ Config.sizeOk s.ibufSize = true ∧ Config.sizeOk s.pbufSize = true
      ∧ Config.sizeOk s.dbufSize = true := by
  simp [State.sizesOk, Config.Params.ok, and_assoc]

/-- A located buffer byte is the byte at the offset itself, and lies in one of the buffers (R70). -/
theorem State.locate_buffer {s : State} {offset : Word} {a : Nat} (h : s.locate offset = .buffer a) :
    a = offset.toNat ∧ s.inBuffers a = true := by
  simp only [State.locate] at h
  split_ifs at h with h₁ h₂ h₃ h₄ h₅ h₆ h₇ h₈ h₉ h₁₀
  all_goals
    simp only [bufferLoc] at h
    split_ifs at h with h₁₁
    simp only [Loc.buffer.injEq] at h
    subst h
    refine ⟨rfl, ?_⟩
    simp only [Config.ibufBase, Config.pbufBase, Config.dbufBase, Config.mapEnd] at *
    simp only [State.inBuffers_iff, Config.ibufBase, Config.pbufBase, Config.dbufBase]
    omega

/-- Everything a WR8 can do (R61, R70, R74): it writes one byte of a buffer of an idle block. -/
theorem State.wr8Effect_cases {s t : State} {offset : Word} {v : Byte}
    (h : s.wr8Effect offset v = some t) :
    s.busy = false ∧ ∃ a, s.locate offset = .buffer a ∧ t = s.writeBytes a [v] := by
  unfold State.wr8Effect at h
  split at h
  · simp at h
  · rename_i hb
    split at h
    · rename_i a ha
      exact ⟨by simpa using hb, a, ha, by simpa using h.symm⟩
    all_goals simp at h

/-- Everything a WR32 to a register can do (R65, R74). -/
theorem State.writeReg_cases {s t : State} {v : Word} {r : Reg} (h : s.writeReg v r = some t) :
    (r = .status ∧ t = s.ackSticky v) ∨ (r = .intStatus ∧ t = s.ackInterrupt v)
      ∨ (r = .intEnable ∧ t = { s with doneEn := v.getLsbD 0, errEn := v.getLsbD 1 })
      ∨ (s.busy = false ∧ ((r = .cmd ∧ t = { s with pending := some v })
        ∨ (r = .inLen ∧ t = { s with inLen := v }) ∨ (r = .pkLen ∧ t = { s with pkLen := v }))) := by
  cases r <;> simp only [State.writeReg, reduceCtorEq, Option.some.injEq] at h <;>
    first
    | (subst h; simp)
    | (split at h <;> simp_all)

/-- Everything a WR32 can do (R61, R65, R67, R70 to R72, R74): it writes a register, or one histogram
entry or four buffer bytes of an idle block, at a 4-aligned offset. -/
theorem State.wr32Effect_cases {s t : State} {offset v : Word} (h : s.wr32Effect offset v = some t) :
    aligned offset = true ∧
      ((∃ r, s.locate offset = .register r ∧ s.writeReg v r = some t)
      ∨ (s.busy = false ∧ ∃ x, s.locate offset = .hist x ∧ t = { s with hist := histSet s.hist x v })
      ∨ (s.busy = false ∧ ∃ a, s.locate offset = .buffer a ∧ t = s.writeBytes a (bytesLE v))) := by
  unfold State.wr32Effect at h
  split at h
  · rename_i ha
    refine ⟨ha, ?_⟩
    split at h
    · rename_i r hr
      exact .inl ⟨r, hr, h⟩
    · rename_i x hx
      split at h
      · simp at h
      · rename_i hb
        exact .inr (.inl ⟨by simpa using hb, x, hx, by simpa using h.symm⟩)
    · rename_i a hl
      split at h
      · simp at h
      · rename_i hb
        exact .inr (.inr ⟨by simpa using hb, a, hl, by simpa using h.symm⟩)
    all_goals simp at h
  · simp at h

/-- Everything a transaction does to the state: a read leaves it but for its response, and a write has
its effect and the response OKAY, or only the response ERROR (R60, R63, R75). -/
theorem exec_transaction {i : Instr} (hi : i.isCommand = false) (s : State) :
    (∃ r, exec i s = .next { s with responses := r :: s.responses })
      ∨ (∃ offset v t, i = .wr8 offset v ∧ s.wr8Effect offset v = some t
          ∧ exec i s = .next { t with responses := .okay :: t.responses })
      ∨ (∃ offset v t, i = .wr32 offset v ∧ s.wr32Effect offset v = some t
          ∧ exec i s = .next { t with responses := .okay :: t.responses }) := by
  cases i with
  | rd8 offset => exact .inl ⟨_, rfl⟩
  | rd32 offset => exact .inl ⟨_, rfl⟩
  | wr8 offset v =>
    cases h : s.wr8Effect offset v with
    | none => exact .inl ⟨.error, by simp [exec, execWr8, h]⟩
    | some t => exact .inr (.inl ⟨offset, v, t, rfl, h, by simp [exec, execWr8, h]⟩)
  | wr32 offset v =>
    cases h : s.wr32Effect offset v with
    | none => exact .inl ⟨.error, by simp [exec, execWr32, h]⟩
    | some t => exact .inr (.inr ⟨offset, v, t, rfl, h, by simp [exec, execWr32, h]⟩)
  | _ => simp [Instr.isCommand] at hi

end Sys2Proof.Machine
end

