-- ==== Sys2Proof/Laws/PerInstr.lean ====
section
/-! SUPPORT. Facts about every instruction, one lemma per constructor. Family Space: the encoding of an
instruction lies in its own space, and so does what decoding makes of it (30_encoding rules R90, R95). -/

namespace Sys2Proof.Laws.Space

/-- An instruction's encoding is a command word exactly when the instruction is a command. -/
def Statement (i : Instr) : Prop :=
  (encode i).isCommand = i.isCommand ∧ (decode (encode i)).isCommand = i.isCommand

theorem nop : Statement .nop := ⟨rfl, rfl⟩
theorem count : Statement .count := ⟨rfl, rfl⟩
theorem build : Statement .build := ⟨rfl, rfl⟩
theorem gen : Statement .gen := ⟨rfl, rfl⟩
theorem pack : Statement .pack := ⟨rfl, rfl⟩
theorem unpack : Statement .unpack := ⟨rfl, rfl⟩
theorem clr : Statement .clr := ⟨rfl, rfl⟩
theorem illegalOp7 : Statement .illegalOp7 := ⟨rfl, rfl⟩

/-- What decoding a command word makes is a command. -/
theorem decodeCommand_isCommand (w : Word) : (decodeCommand w).isCommand = true := by
  unfold decodeCommand decodeOp
  split
  · split <;> rfl
  · rfl

theorem illegalOp8F (o : BitVec 3) : Statement (.illegalOp8F o) := ⟨rfl, decodeCommand_isCommand _⟩
theorem illegalRsvd (r : BitVec 28) (p : BitVec 4) : Statement (.illegalRsvd r p) :=
  ⟨rfl, decodeCommand_isCommand _⟩
theorem rd8 (offset : Word) : Statement (.rd8 offset) := ⟨rfl, rfl⟩
theorem rd32 (offset : Word) : Statement (.rd32 offset) := ⟨rfl, rfl⟩
theorem wr8 (offset : Word) (data : Byte) : Statement (.wr8 offset data) := ⟨rfl, rfl⟩
theorem wr32 (offset : Word) (data : Word) : Statement (.wr32 offset data) := ⟨rfl, rfl⟩

end Sys2Proof.Laws.Space
end

