-- ==== Sys2Proof/Laws/Step.lean ====
section
/-! SUPPORT. Everything a step can do, and the shape every command's meaning has. -/

namespace Sys2Proof.Machine

/-- Everything a step that goes on can do: with the event taken off the schedule it ran the host's
transaction or the pending command, applied a reset, or did nothing (R16, R211, R245, R260). -/
theorem step_next_cases {s t : State} (h : step s = .next t) :
    ∃ events, let s' : State := { s with schedule := events }
      (∃ tr, s.schedule = .bus tr :: events ∧ exec (decodeTransaction tr) s' = .next t)
      ∨ (s.schedule = .reset :: events ∧ t = s'.resetEvent)
      ∨ ((s.schedule = .core :: events ∨ (s.schedule = [] ∧ events = []))
          ∧ ((∃ w, s.pending = some w ∧ exec (decodeCommand w) s' = .next t)
            ∨ (s.pending = none ∧ t = s'))) := by
  have core : ∀ s' : State, s'.pending = s.pending →
      (match coreTurn s' with
        | .run i u => exec i u
        | .settled u => Host.Outcome.next u) = .next t →
      (∃ w, s.pending = some w ∧ exec (decodeCommand w) s' = .next t) ∨ (s.pending = none ∧ t = s') := by
    intro s' hp h
    rw [← hp]
    cases hw : s'.pending with
    | none => exact .inr ⟨rfl, by simpa [coreTurn, hw] using h.symm⟩
    | some w => exact .inl ⟨w, rfl, by simpa [coreTurn, hw] using h⟩
  unfold step fetch at h
  split at h
  · rename_i hs
    split at hs
    all_goals try (simp at hs; done)
    · rename_i he
      refine ⟨[], .inr (.inr ⟨.inr ⟨he, rfl⟩, ?_⟩)⟩
      have e : ({ s with schedule := [] } : State) = s := by rw [← he]
      rw [e]
      exact core s rfl (by rw [hs]; exact h)
    · rename_i events he
      exact ⟨events, .inr (.inr ⟨.inl he, core _ rfl (by rw [hs]; exact h)⟩)⟩
    · rename_i tr events he
      obtain ⟨rfl, rfl⟩ := Fetched.run.inj hs
      exact ⟨events, .inl ⟨tr, he, h⟩⟩
  · rename_i hs
    split at hs
    all_goals try (simp at hs; done)
    · rename_i he
      refine ⟨[], .inr (.inr ⟨.inr ⟨he, rfl⟩, ?_⟩)⟩
      have e : ({ s with schedule := [] } : State) = s := by rw [← he]
      rw [e]
      exact core s rfl (by rw [hs]; exact h)
    · rename_i events he
      exact ⟨events, .inr (.inr ⟨.inl he, core _ rfl (by rw [hs]; exact h)⟩)⟩
    · rename_i events he
      refine ⟨events, .inr (.inl ⟨he, ?_⟩)⟩
      have := Fetched.settled.inj hs
      simp only [Host.Outcome.next.injEq] at h
      rw [← h, ← this]

/-- The result of a command's rule (R212): an error or the state with the command's writes; none where
GEN has no outcome (log entry 7). -/
def commandResult (i : Instr) (s : State) : Option CmdResult :=
  match i with
  | .nop => some (.ok s)
  | .count => some (countResult s)
  | .build => some (buildResult s)
  | .gen =>
    if s.treeValid then (genTable s.node s.root).map fun t => .ok (s.withTable t)
    else some (.error .noTreeToCode)
  | .pack => some (packResult s)
  | .unpack => some (unpackResult s)
  | .clr => some (.ok s.cleared)
  | .illegalOp7 => some (.error (.illegalWord 7))
  | .illegalOp8F o => some (.error (.illegalWord (0#28 ++ (1#1 ++ o))))
  | .illegalRsvd r p => some (.error (.illegalWord (r ++ p)))
  | .rd8 _ | .rd32 _ | .wr8 _ _ | .wr32 _ _ => none

/-- LAST_OP of a command: bits 3:0 of its word (R211). -/
def commandOp (i : Instr) : BitVec 4 :=
  match encode i with
  | .command w => w.extractLsb' 0 4
  | .transaction _ => 0

/-- Every command's meaning is the completion of its rule's result under its LAST_OP (R211, R212); only
GEN can stop, and only where it has no result. -/
theorem exec_command {i : Instr} (hi : i.isCommand = true) (s : State) :
    exec i s = match commandResult i s with
      | some r => .next (s.complete (commandOp i) r)
      | none => .fault .codePathTooLong := by
  cases i with
  | gen =>
    simp only [exec, execGen, commandResult]
    cases s.treeValid with
    | false => rfl
    | true =>
      simp only [if_true]
      cases genTable s.node s.root <;> rfl
  | rd8 _ => simp [Instr.isCommand] at hi
  | rd32 _ => simp [Instr.isCommand] at hi
  | wr8 _ _ => simp [Instr.isCommand] at hi
  | wr32 _ _ => simp [Instr.isCommand] at hi
  | _ => rfl

end Sys2Proof.Machine
end

