-- ==== Sys2Proof/Laws/Tables.lean ====
section
/-! SUPPORT. HIST, NODE and CTAB: a read after a write, what a write leaves alone, and the empty tables. -/

namespace Sys2Proof.Machine

@[simp] theorem histAt_histSet_same (h : HistMem) (s : Byte) (v : Word) : histAt (histSet h s v) s = v := by
  simp [histAt, histSet]

theorem histAt_histSet_other (h : HistMem) {s r : Byte} (v : Word) (hr : r ≠ s) :
    histAt (histSet h s v) r = histAt h r := by
  have : s.toNat ≠ r.toNat := fun e => hr (BitVec.eq_of_toNat_eq e.symm)
  simp [histAt, histSet, this]

@[simp] theorem nodeAt_nodeSet_same (nodes : NodeMem) (n : NodeIdx) (r : NodeRecord) :
    nodeAt (nodeSet nodes n r) n = r := by
  simp [nodeAt, nodeSet]

theorem nodeAt_nodeSet_other (nodes : NodeMem) {n m : NodeIdx} (r : NodeRecord) (h : m ≠ n) :
    nodeAt (nodeSet nodes n r) m = nodeAt nodes m := by
  have : n.toNat ≠ m.toNat := fun e => h (BitVec.eq_of_toNat_eq e.symm)
  simp [nodeAt, nodeSet, this]

@[simp] theorem codeAt_codeSet_same (t : CodeMem) (s : Byte) (e : CodeEntry) :
    codeAt (codeSet t s e) s = e := by
  simp [codeAt, codeSet]

theorem codeAt_codeSet_other (t : CodeMem) {s r : Byte} (e : CodeEntry) (h : r ≠ s) :
    codeAt (codeSet t s e) r = codeAt t r := by
  have : s.toNat ≠ r.toNat := fun e => h (BitVec.eq_of_toNat_eq e.symm)
  simp [codeAt, codeSet, this]

@[simp] theorem histAt_emptyHist (s : Byte) : histAt emptyHist s = 0 := by
  simp [histAt, emptyHist]

@[simp] theorem nodeAt_emptyNodes (n : NodeIdx) : nodeAt emptyNodes n = NodeRecord.invalid := by
  simp [nodeAt, emptyNodes]

@[simp] theorem codeAt_emptyCodes (s : Byte) : codeAt emptyCodes s = CodeEntry.invalid := by
  simp [codeAt, emptyCodes]

/-- Two histograms with the same entries are the same. -/
theorem hist_ext {h k : HistMem} (e : ∀ s, histAt h s = histAt k s) : h = k := by
  apply Vector.ext
  intro i hi
  have := e (BitVec.ofNat 8 i)
  simpa [histAt, Nat.mod_eq_of_lt hi] using this

/-- Two node memories with the same records are the same. -/
theorem node_ext {a b : NodeMem} (e : ∀ n, nodeAt a n = nodeAt b n) : a = b := by
  apply Vector.ext
  intro i hi
  have := e (BitVec.ofNat 9 i)
  simpa [nodeAt, Nat.mod_eq_of_lt hi] using this

/-- Two code tables with the same entries are the same. -/
theorem code_ext {a b : CodeMem} (e : ∀ s, codeAt a s = codeAt b s) : a = b := by
  apply Vector.ext
  intro i hi
  have := e (BitVec.ofNat 8 i)
  simpa [codeAt, Nat.mod_eq_of_lt hi] using this

end Sys2Proof.Machine
end

