-- ==== Sys2Proof/Laws/Units.lean ====
section
/-! SUPPORT. One lemma per function of the five units, saying what it computes in the spec's words, so that
later proofs cite it instead of unfolding the function. -/

namespace Sys2Proof.Machine

/-! ### COUNT -/

theorem histAt_histInc (h : HistMem) (s x : Byte) :
    histAt (histInc h s) x = if x = s then histAt h x + 1 else histAt h x := by
  unfold histInc
  by_cases e : x = s
  · subst e; simp
  · simp [histAt_histSet_other _ _ e, e]

/-- The histogram counts the occurrences of each symbol (R120). -/
theorem histAt_histogram (bytes : List Byte) (x : Byte) :
    histAt (histogram bytes) x = BitVec.ofNat 32 (bytes.count x) := by
  have step : ∀ (bytes : List Byte) (h : HistMem),
      histAt (bytes.foldl histInc h) x = histAt h x + BitVec.ofNat 32 (bytes.count x) := by
    intro bytes
    induction bytes with
    | nil => intro h; simp
    | cons b bs ih =>
      intro h
      rw [List.foldl_cons, ih, histAt_histInc]
      by_cases e : x = b
      · subst e
        simp only [if_true, List.count_cons_self]
        rw [BitVec.ofNat_add, BitVec.add_assoc, BitVec.add_comm 1]
        rfl
      · rw [if_neg e, List.count_cons_of_ne (Ne.symm e)]
  rw [histogram, step]
  simp

/-- The number of nonzero entries, counted over the symbols (R120, R122). -/
theorem distinctSymbols_eq (h : HistMem) : distinctSymbols h = symbolCount h := by
  have e : h.toList = (List.range 256).map fun x => histAt h (BitVec.ofNat 8 x) := by
    apply List.ext_getElem
    · simp
    · intro i h₁ h₂
      have hi : i < 256 := by simpa using h₁
      simp [histAt, Nat.mod_eq_of_lt hi]
  rw [distinctSymbols, symbolCount, e, List.countP_map, List.countP_eq_length_filter]
  rfl

/-! ### BUILD -/

/-- ExtractMin finds an entry exactly in a container that is not empty, and takes one out. -/
theorem extractMin_length {q : List QEntry} {m : QEntry} {rest : List QEntry}
    (h : extractMin q = some (m, rest)) : q.length = rest.length + 1 := by
  induction q generalizing m rest with
  | nil => simp [extractMin] at h
  | cons e q ih =>
    rw [extractMin] at h
    split at h
    · rename_i hq
      cases q with
      | nil =>
        simp only [Option.some.injEq, Prod.mk.injEq] at h
        simp [← h.2]
      | cons e' q' =>
        rw [extractMin] at hq
        split at hq
        · simp at hq
        · split at hq <;> simp at hq
    · rename_i m' r' hq
      split at h <;> simp only [Option.some.injEq, Prod.mk.injEq] at h
      · simp [← h.2]
      · have := ih hq
        simp [← h.2, this]

/-- One more merge leaves every record but its own as the merges after it leave it. -/
theorem nodeAt_merge (nodes : NodeMem) (k : Nat) (a b : QEntry) (n : NodeIdx) :
    nodeAt (nodeSet nodes (internalIdx k) (mergeRecord a b)) n =
      if n = internalIdx k then mergeRecord a b else nodeAt nodes n := by
  by_cases e : n = internalIdx k
  · subst e; simp
  · simp [nodeAt_nodeSet_other _ _ e, e]

/-! ### GEN -/

/-- The walk at a leaf records the path to it (R150). -/
theorem codeWalk_leaf (nodes : NodeMem) (depth : Nat) (n : NodeIdx) (path : List Bool)
    (h : (nodeAt nodes n).leaf = true) :
    codeWalk nodes depth n path = some [((nodeAt nodes n).symbol, path)] := by
  cases depth <;> simp [codeWalk, h]

/-- Two bit strings one after the other lead where the second leads from where the first does. -/
theorem follow_append (nodes : NodeMem) (n : NodeIdx) (xs ys : List Bool) :
    follow nodes n (xs ++ ys) = (follow nodes n xs).bind fun m => follow nodes m ys := by
  induction xs generalizing n with
  | nil => rfl
  | cons b xs ih =>
    simp only [List.cons_append, follow, ih]
    by_cases c : (if b = true then (nodeAt nodes n).right else (nodeAt nodes n).left) = Config.nilIdx <;>
      simp [c]

/-! ### PACK -/

/-- Where every byte has a code, the bit string is the concatenation of the codes (R167). -/
theorem encodeBytes_ok (t : CodeMem) (i : Nat) (bytes : List Byte)
    (h : ∀ b ∈ bytes, (codeAt t b).valid = true) :
    encodeBytes t i bytes = .ok (bytes.flatMap fun b => (codeAt t b).bits) := by
  induction bytes generalizing i with
  | nil => rfl
  | cons b bs ih =>
    rw [encodeBytes, if_pos (h b (by simp)), ih _ fun c hc => h c (by simp [hc])]
    rfl

/-- The first byte without a code is reported by its index (R166). -/
theorem encodeBytes_error (t : CodeMem) (i : Nat) (before : List Byte) (b : Byte) (after : List Byte)
    (h : ∀ c ∈ before, (codeAt t c).valid = true) (hb : (codeAt t b).valid = false) :
    encodeBytes t i (before ++ b :: after) = .error (.noCode (i + before.length)) := by
  induction before generalizing i with
  | nil => simp [encodeBytes, hb]
  | cons c cs ih =>
    rw [List.cons_append, encodeBytes, if_pos (h c (by simp)), ih _ fun d hd => h d (by simp [hd])]
    simp only [List.length_cons]
    congr 2
    omega

/-- Byte j of the payload part of an artifact. -/
theorem artifact_getElem_payload (bits : List Bool) (j : Nat) (h : j < ceil8 bits.length) :
    (artifact bits)[4 + j]'(by simp; omega) = payloadByte bits j := by
  have e : 4 + j - (bytesBE (BitVec.ofNat 32 bits.length)).length = j := by simp [bytesBE]
  simp only [artifact]
  rw [List.getElem_append_right (by simp [bytesBE])]
  simp only [e]
  simp [payload]

/-! ### UNPACK -/

/-- A walk over two bit strings one after the other (R190). -/
theorem bitWalk_append (nodes : NodeMem) (root : NodeIdx) (room t : Nat) (n : NodeIdx) (out : List Byte)
    (xs ys : List Bool) :
    bitWalk nodes root room t n out (xs ++ ys) =
      match bitWalk nodes root room t n out xs with
      | .error e => .error e
      | .ok (m, out') => bitWalk nodes root room (t + xs.length) m out' ys := by
  induction xs generalizing t n out with
  | nil => simp [bitWalk]
  | cons b xs ih =>
    simp only [List.cons_append, bitWalk]
    by_cases h₁ : childOf (nodeAt nodes n) b = Config.nilIdx
    · simp [h₁]
    · by_cases h₂ : (nodeAt nodes (childOf (nodeAt nodes n) b)).leaf = true
      · by_cases h₃ : out.length = room
        · simp [h₁, h₂, h₃]
        · simp only [h₁, h₂, h₃, if_true, if_false, ih, List.length_cons]
          rw [show t + 1 + xs.length = t + (xs.length + 1) by omega]
      · simp only [h₁, h₂, if_false, ih, List.length_cons, Bool.false_eq_true]
        rw [show t + 1 + xs.length = t + (xs.length + 1) by omega]

/-- The output of a walk never exceeds the room for it (R193). -/
theorem bitWalk_length {nodes : NodeMem} {root : NodeIdx} {room t : Nat} {n m : NodeIdx}
    {out out' : List Byte} {bits : List Bool} (h : bitWalk nodes root room t n out bits = .ok (m, out'))
    (ho : out.length ≤ room) : out'.length ≤ room := by
  induction bits generalizing t n out with
  | nil =>
    simp only [bitWalk, Except.ok.injEq, Prod.mk.injEq] at h
    exact h.2 ▸ ho
  | cons b bits ih =>
    simp only [bitWalk] at h
    split_ifs at h with h₁ h₂ h₃
    · exact ih h (by simp only [List.length_append, List.length_singleton]; omega)
    · exact ih h ho

end Sys2Proof.Machine
end

