-- ==== Sys2Proof/Tests/Slice0.lean ====
section
/-! SUPPORT. Tests: every encoding from the spec's own tables, the vectors of 95_test_vectors.md on one step
each, and a witness for the hypotheses of every obligation that has some. -/

namespace Sys2Proof.Tests

open Sys2Proof.Machine

set_option Elab.async false

/-! ### Well-formedness: the one check there is -/

theorem test_illformed_rsvd_refused : (Instr.illegalRsvd 0 3).wellFormed = false := by decide
theorem test_wellformed_rsvd : (Instr.illegalRsvd 1 3).wellFormed = true := by decide

/-! ### Decoding: words written out from rules R90 to R92 and kinds from rule R95 -/

theorem test_decode_nop : decodeTableWord 32 0b0000 = some .nop := by decide
theorem test_decode_count : decodeTableWord 32 0b0001 = some .count := by decide
theorem test_decode_build : decodeTableWord 32 0b0010 = some .build := by decide
theorem test_decode_gen : decodeTableWord 32 0b0011 = some .gen := by decide
theorem test_decode_pack : decodeTableWord 32 0b0100 = some .pack := by decide
theorem test_decode_unpack : decodeTableWord 32 0b0101 = some .unpack := by decide
theorem test_decode_clr : decodeTableWord 32 0b0110 = some .clr := by decide
theorem test_decode_illegal_7 : decodeTableWord 32 0b0111 = some .illegalOp7 := by decide
theorem test_decode_illegal_8 : decodeTableWord 32 0b1000 = some (.illegalOp8F 0) := by decide
theorem test_decode_illegal_F : decodeTableWord 32 0b1111 = some (.illegalOp8F 7) := by decide
theorem test_decode_illegal_rsvd :
    decodeTableWord 32 0b10000000000000000000000000010111 = some (.illegalRsvd 0x8000001 7) := by decide
theorem test_decode_rd8 : decodeTableWord 8 0b00 = some (.rd8 0) := by decide
theorem test_decode_rd32 : decodeTableWord 8 0b01 = some (.rd32 0) := by decide
theorem test_decode_wr8 : decodeTableWord 8 0b10 = some (.wr8 0 0) := by decide
theorem test_decode_wr32 : decodeTableWord 8 0b11 = some (.wr32 0 0) := by decide
theorem test_decode_wr8_operands :
    decode (.transaction { kind := 0b10, offset := 0x02000003, data := 0x02 }) =
      .wr8 0x02000003 0x02 := by decide
theorem test_decode_no_fifth_kind : decodeBits 8 4 = .error .kindNotTwoBits := by rfl
theorem test_decode_too_long : decodeBits 32 0x100000000 = .error .tooLong := by rfl

/-! ### Small states -/

/-- The state an instruction leaves, where it goes on. -/
def after (i : Instr) (s : State) : Option State :=
  match exec i s with
  | .next t => some t
  | .fault _ => none
  | .refused _ => none

theorem exec_of_after {i : Instr} {s : State} (h : (after i s).isSome = true) :
    exec i s = .next ((after i s).getD s) := by
  revert h
  unfold after
  cases exec i s <;> simp

/-- The state after a command, or the state itself. -/
def run (i : Instr) (s : State) : State := (after i s).getD s

/-- Every instruction but GEN goes on from every state. -/
theorem runs {i : Instr} (h : i ≠ .gen) (s : State) : exec i s = .next (run i s) := by
  cases i <;> first | rfl | exact absurd rfl h

/-- From reset, these input bytes in IBUF and their number in IN_LEN. -/
def input (bytes : List Byte) : State :=
  { State.reset.writeBytes Config.ibufBase bytes with inLen := BitVec.ofNat 32 bytes.length }

/-- From reset, these counts in HIST. -/
def counts (h : List (Byte × Word)) : State :=
  { State.reset with hist := h.foldl (fun t p => histSet t p.1 p.2) emptyHist }

/-- These bytes in PBUF and their number in PK_LEN. -/
def withPacked (s : State) (bytes : List Byte) : State :=
  { s.writeBytes Config.pbufBase bytes with pkLen := BitVec.ofNat 32 bytes.length }

/-- "aaabbc" of 95_test_vectors section 1.1, as its histogram, with its tree, with its table. -/
def abcCounts : State := counts [(0x61, 3), (0x62, 2), (0x63, 1)]
def abcTree : State := run .build abcCounts
def abcTable : State := run .gen abcTree

/-- The tree of vector BLD1 and its table of vector GEN1, written out. -/
def abc : State :=
  { State.reset with
    treeValid := true, ctValid := true, root := 257, maxLen := 2
    node := nodeSet (nodeSet (nodeSet (nodeSet (nodeSet emptyNodes 0x61 (leafRecord 0x61 3))
        0x62 (leafRecord 0x62 2)) 0x63 (leafRecord 0x63 1))
      256 { weight := 3, left := 0x63, right := 0x62, valid := true, leaf := false, symbol := 0 })
      257 { weight := 6, left := 0x61, right := 256, valid := true, leaf := false, symbol := 0 }
    ctab := codeSet (codeSet (codeSet emptyCodes 0x61 ⟨true, [false]⟩)
      0x62 ⟨true, [true, true]⟩) 0x63 ⟨true, [true, false]⟩ }

/-- The single-symbol tree of vector BLD3 and its table of vector GEN3, written out. -/
def one : State :=
  { State.reset with
    treeValid := true, ctValid := true, root := 256, maxLen := 1
    node := nodeSet (nodeSet emptyNodes 0x61 (leafRecord 0x61 3)) 256
      { weight := 3, left := 0x61, right := 0x1FF, valid := true, leaf := false, symbol := 0 }
    ctab := codeSet emptyCodes 0x61 ⟨true, [false]⟩ }

/-! ### Vectors of 95_test_vectors.md, one step each -/

/-- CT1. -/
theorem test_nop : (run .nop State.reset).statusWord = 0x00000000
    ∧ (run .nop State.reset).intStatusWord = 0x00000001 := by decide +kernel

/-- CNT1. -/
theorem test_count_abc : let t := run .count (input [0x61, 0x61, 0x61, 0x62, 0x62, 0x63])
    histAt t.hist 0x61 = 3 ∧ histAt t.hist 0x62 = 2 ∧ histAt t.hist 0x63 = 1
      ∧ histAt t.hist 0x64 = 0 ∧ t.nsym = 3 ∧ t.statusWord = 0x00000100 := by decide +kernel

/-- CNT4. -/
theorem test_count_beyond : let t := run .count { State.reset with inLen := 65537 }
    t.statusWord = 0x00011120 ∧ t.errPos = 65537 := by decide +kernel

/-- BLD1: the tie at weight 3 goes to the leaf. -/
theorem test_build_abc : nodeAt abcTree.node 256 = ⟨3, 0x63, 0x62, true, false, 0⟩
    ∧ nodeAt abcTree.node 257 = ⟨6, 0x61, 256, true, false, 0⟩ ∧ abcTree.root = 0x101
    ∧ abcTree.nsym = 3 ∧ abcTree.statusWord = 0x00000202 := by decide +kernel

/-- BLD8: weights beyond 32 bits. -/
theorem test_build_wide_weights :
    let t := run .build (counts [(0, 0xFFFFFFFF), (1, 0xFFFFFFFF), (2, 0xFFFFFFFF)])
    nodeAt t.node 256 = ⟨0x1FFFFFFFE, 0, 1, true, false, 0⟩
      ∧ nodeAt t.node 257 = ⟨0x2FFFFFFFD, 2, 256, true, false, 0⟩ := by decide +kernel

/-- GEN1, as the CTAB window shows it. -/
theorem test_gen_abc : (codeAt abcTable.ctab 0x63).word 0 = 0x80000002
    ∧ (codeAt abcTable.ctab 0x63).word 1 = 0x80000000 ∧ (codeAt abcTable.ctab 0x62).word 1 = 0xC0000000
    ∧ (codeAt abcTable.ctab 0x61).word 0 = 0x80000001 ∧ (codeAt abcTable.ctab 0x64).word 0 = 0
    ∧ abcTable.maxLen = 2 := by decide +kernel

/-- GEN9. -/
theorem test_gen_without_tree : (run .gen State.reset).statusWord = 0x00011360 := by decide +kernel

/-- PK3. -/
theorem test_pack_ab :
    let t := run .pack { (run .gen (run .build (counts [(0x61, 1), (0x62, 1)]))).writeBytes
      Config.ibufBase [0x61, 0x62] with inLen := 2 }
    (List.range 5).map t.pbufByte = [0x00, 0x00, 0x00, 0x02, 0x40] ∧ t.pkLen = 5 ∧ t.bitLen = 2 := by
  decide +kernel

/-- PK9: the least index. -/
theorem test_pack_no_code :
    let t := run .pack { abc.writeBytes Config.ibufBase [0x64, 0x7A, 0x7A] with inLen := 3 }
    t.lastErr = .unknownSymbol ∧ t.errSub = 1 ∧ t.errPos = 0 := by decide +kernel

/-- U1. -/
theorem test_unpack_abc : let t := run .unpack (withPacked abcTree [0x00, 0x00, 0x00, 0x09, 0x1F, 0x00])
    (List.range 6).map t.dbufByte = [0x61, 0x61, 0x61, 0x62, 0x62, 0x63] ∧ t.outLen = 6
      ∧ t.bitLen = 9 ∧ t.lastErr = .ok := by decide +kernel

/-- U18: a bit to an absent child. -/
theorem test_unpack_absent_child :
    let t := run .unpack (withPacked one [0x00, 0x00, 0x00, 0x02, 0x40])
    t.lastErr = .corruptStream ∧ t.errSub = 3 ∧ t.errPos = 1 := by decide +kernel

/-- CT3. -/
theorem test_clr : let t := run .clr (withPacked abcTable [0x00, 0x00, 0x00, 0x09, 0x1F, 0x00])
    t.root = 0x1FF ∧ t.statusWord = 0x00000600 ∧ histAt t.hist 0x61 = 0 ∧ t.pkLen = 6
      ∧ t.pbufByte 4 = 0x1F := by decide +kernel

/-- CT4. -/
theorem test_illegal_7 : (run .illegalOp7 State.reset).statusWord = 0x00012710
    ∧ (run .illegalOp7 State.reset).errPos = 0x00000007 := by decide +kernel

/-- CT5. -/
theorem test_illegal_F : (run (.illegalOp8F 7) State.reset).statusWord = 0x00012F10
    ∧ (run (.illegalOp8F 7) State.reset).errPos = 0x0000000F := by decide +kernel

/-- CT7. -/
theorem test_illegal_rsvd : (run (.illegalRsvd 1 1) State.reset).statusWord = 0x00011110
    ∧ (run (.illegalRsvd 1 1) State.reset).errPos = 0x00000011 := by decide +kernel

/-- B1 and B20. -/
theorem test_rd32 : (run (.rd32 0x000) State.reset).responses = [.data32 0x48554631]
    ∧ (run (.rd32 0x3FF8) State.reset).responses = [.data32 0x01FF01FF] := by decide +kernel

/-- B14: little-endian lanes over the big-endian header. -/
theorem test_rd32_header :
    (run (.rd32 0x02000000) (withPacked State.reset [0x00, 0x00, 0x00, 0x09])).responses =
      [.data32 0x09000000] := by decide +kernel

/-- B3 and B12. -/
theorem test_rd8 : (run (.rd8 0x008) State.reset).responses = [.error]
    ∧ (run (.rd8 0x02000002) (withPacked State.reset [1, 2, 3])).responses = [.data8 3] := by decide +kernel

/-- P3, transaction 16. -/
theorem test_wr8 : (run (.wr8 0x02000003 0x02) State.reset).pbufByte 3 = 0x02
    ∧ (run (.wr8 0x02000003 0x02) State.reset).responses = [.okay] := by decide +kernel

/-- B13: little-endian lanes. -/
theorem test_wr32_lanes : let t := run (.wr32 0x01000000 0x61726261) State.reset
    (List.range 4).map t.ibufByte = [0x61, 0x62, 0x72, 0x61] ∧ t.responses = [.okay] := by decide +kernel

/-- B7 and B23: a read-only register, and CMD while a command is pending. -/
theorem test_wr32_refused : (run (.wr32 0x028 0) State.reset).responses = [.error]
    ∧ (run (.wr32 0x004 1) { State.reset with pending := some 0 }).responses = [.error]
    ∧ (run (.wr32 0x004 1) { State.reset with pending := some 0 }).pending = some 0 := by decide +kernel

/-- B22: BUSY reads 1 while the NOP is pending, and the core's turn completes it. -/
theorem test_issue_and_complete :
    (run (.wr32 0x004 0) State.reset).statusWord = 0x00000001
    ∧ Host.Core.run Sys2Proof.core 1 (run (.wr32 0x004 0) State.reset) =
        .next (run .nop (run (.wr32 0x004 0) State.reset)) := by
  refine ⟨by decide +kernel, rfl⟩

/-! ### The invariant holds of the two small trees and their tables -/

theorem abc_node (n : NodeIdx) : nodeAt abc.node n =
    if n = 257 then ⟨6, 0x61, 256, true, false, 0⟩
    else if n = 256 then ⟨3, 0x63, 0x62, true, false, 0⟩
    else if n = 0x63 then leafRecord 0x63 1
    else if n = 0x62 then leafRecord 0x62 2
    else if n = 0x61 then leafRecord 0x61 3 else NodeRecord.invalid := by
  simp only [abc]
  by_cases h₁ : n = 257
  · subst h₁; simp
  · rw [nodeAt_nodeSet_other _ _ h₁, if_neg h₁]
    by_cases h₂ : n = 256
    · subst h₂; simp
    · rw [nodeAt_nodeSet_other _ _ h₂, if_neg h₂]
      by_cases h₃ : n = 0x63
      · subst h₃; simp
      · rw [nodeAt_nodeSet_other _ _ h₃, if_neg h₃]
        by_cases h₄ : n = 0x62
        · subst h₄; simp
        · rw [nodeAt_nodeSet_other _ _ h₄, if_neg h₄]
          by_cases h₅ : n = 0x61
          · subst h₅; simp
          · rw [nodeAt_nodeSet_other _ _ h₅, if_neg h₅, nodeAt_emptyNodes]

theorem one_node (n : NodeIdx) : nodeAt one.node n =
    if n = 256 then ⟨3, 0x61, 0x1FF, true, false, 0⟩
    else if n = 0x61 then leafRecord 0x61 3 else NodeRecord.invalid := by
  simp only [one]
  by_cases h₁ : n = 256
  · subst h₁; simp
  · rw [nodeAt_nodeSet_other _ _ h₁, if_neg h₁]
    by_cases h₂ : n = 0x61
    · subst h₂; simp
    · rw [nodeAt_nodeSet_other _ _ h₂, if_neg h₂, nodeAt_emptyNodes]

theorem abc_internal {n : NodeIdx} : isInternal abc.node n ↔ n = 257 ∨ n = 256 := by
  unfold isInternal
  rw [abc_node]
  split_ifs <;> simp_all [leafRecord, NodeRecord.invalid]

theorem abc_leaf {n : NodeIdx} : isLeaf abc.node n ↔ n = 0x63 ∨ n = 0x62 ∨ n = 0x61 := by
  unfold isLeaf
  rw [abc_node]
  split_ifs <;> simp_all [leafRecord, NodeRecord.invalid]

theorem abc_valid {n : NodeIdx} : (nodeAt abc.node n).valid = true ↔
    n = 257 ∨ n = 256 ∨ n = 0x63 ∨ n = 0x62 ∨ n = 0x61 := by
  rw [abc_node]
  split_ifs <;> simp_all [leafRecord, NodeRecord.invalid]

theorem abc_root : nodeAt abc.node 257 = ⟨6, 0x61, 256, true, false, 0⟩ := by rw [abc_node]; rfl
theorem abc_inner : nodeAt abc.node 256 = ⟨3, 0x63, 0x62, true, false, 0⟩ := by rw [abc_node]; rfl
theorem abc_a : nodeAt abc.node 0x61 = leafRecord 0x61 3 := by rw [abc_node]; rfl
theorem abc_b : nodeAt abc.node 0x62 = leafRecord 0x62 2 := by rw [abc_node]; rfl
theorem abc_c : nodeAt abc.node 0x63 = leafRecord 0x63 1 := by rw [abc_node]; rfl

theorem abc_child {p c : NodeIdx} : isChild abc.node p c ↔
    p = 257 ∧ (c = 0x61 ∨ c = 256) ∨ p = 256 ∧ (c = 0x63 ∨ c = 0x62) := by
  unfold isChild
  rw [abc_internal]
  constructor
  · rintro ⟨rfl | rfl, h⟩
    · rw [abc_root] at h
      exact .inl ⟨rfl, h.imp Eq.symm Eq.symm⟩
    · rw [abc_inner] at h
      exact .inr ⟨rfl, h.imp Eq.symm Eq.symm⟩
  · rintro (⟨rfl, h⟩ | ⟨rfl, h⟩)
    · rw [abc_root]
      exact ⟨.inl rfl, h.imp Eq.symm Eq.symm⟩
    · rw [abc_inner]
      exact ⟨.inr rfl, h.imp Eq.symm Eq.symm⟩

theorem abc_shape : TreeShape abc.node abc.root where
  root_internal := abc_internal.2 (.inl rfl)
  leaf_form n h := by
    rcases abc_leaf.1 h with rfl | rfl | rfl
    · rw [abc_c]; decide
    · rw [abc_b]; decide
    · rw [abc_a]; decide
  internal_form n h := by
    rcases abc_internal.1 h with rfl | rfl
    · rw [abc_root]; decide
    · rw [abc_inner]; decide
  invalid_form n h := by
    rw [abc_node] at h ⊢
    split_ifs at h ⊢ <;> simp_all [leafRecord]
  left_child n h := by
    rcases abc_internal.1 h with rfl | rfl
    · rw [abc_root, abc_a]; decide
    · rw [abc_inner, abc_c]; decide
  right_child n h _ := by
    rcases abc_internal.1 h with rfl | rfl
    · rw [abc_root, abc_inner]; decide
    · rw [abc_inner, abc_b]; decide
  one_child n h hr := by
    rcases abc_internal.1 h with rfl | rfl
    · rw [abc_root] at hr
      exact absurd hr (by decide)
    · rw [abc_inner] at hr
      exact absurd hr (by decide)
  has_parent c h hc := by
    rcases abc_valid.1 h with rfl | rfl | rfl | rfl | rfl
    · exact absurd rfl hc
    · exact ⟨257, abc_child.2 (.inl ⟨rfl, .inr rfl⟩)⟩
    · exact ⟨256, abc_child.2 (.inr ⟨rfl, .inl rfl⟩)⟩
    · exact ⟨256, abc_child.2 (.inr ⟨rfl, .inr rfl⟩)⟩
    · exact ⟨257, abc_child.2 (.inl ⟨rfl, .inl rfl⟩)⟩
  one_parent p q c hp hq _ := by
    rcases abc_child.1 hp with ⟨rfl, h⟩ | ⟨rfl, h⟩ <;>
      rcases abc_child.1 hq with ⟨rfl, h'⟩ | ⟨rfl, h'⟩
    · rfl
    · rcases h with rfl | rfl <;> exact absurd h' (by decide)
    · rcases h with rfl | rfl <;> exact absurd h' (by decide)
    · rfl
  root_top p h := by
    rcases abc_child.1 h with ⟨-, h⟩ | ⟨-, h⟩ <;> exact absurd h (by decide)
  weight_sum n h := by
    rcases abc_internal.1 h with rfl | rfl
    · rw [abc_root, abc_a, abc_inner]; decide
    · rw [abc_inner, abc_c, abc_b]; decide

theorem one_internal {n : NodeIdx} : isInternal one.node n ↔ n = 256 := by
  unfold isInternal
  rw [one_node]
  split_ifs <;> simp_all [leafRecord, NodeRecord.invalid]

theorem one_valid {n : NodeIdx} : (nodeAt one.node n).valid = true ↔ n = 256 ∨ n = 0x61 := by
  rw [one_node]
  split_ifs <;> simp_all [leafRecord, NodeRecord.invalid]

theorem one_leaf {n : NodeIdx} : isLeaf one.node n ↔ n = 0x61 := by
  unfold isLeaf
  rw [one_node]
  split_ifs <;> simp_all [leafRecord, NodeRecord.invalid]

theorem one_root : nodeAt one.node 256 = ⟨3, 0x61, 0x1FF, true, false, 0⟩ := by rw [one_node]; rfl
theorem one_left : nodeAt one.node 0x61 = leafRecord 0x61 3 := by rw [one_node]; rfl
theorem one_nil : nodeAt one.node 0x1FF = NodeRecord.invalid := by rw [one_node]; rfl

theorem one_child_iff {p c : NodeIdx} : isChild one.node p c ↔ p = 256 ∧ (c = 0x61 ∨ c = 0x1FF) := by
  unfold isChild
  rw [one_internal]
  constructor
  · rintro ⟨rfl, h⟩
    rw [one_root] at h
    exact ⟨rfl, h.imp Eq.symm Eq.symm⟩
  · rintro ⟨rfl, h⟩
    rw [one_root]
    exact ⟨rfl, h.imp Eq.symm Eq.symm⟩

theorem one_shape : TreeShape one.node one.root where
  root_internal := one_internal.2 rfl
  leaf_form n h := by
    obtain rfl := one_leaf.1 h
    rw [one_left]; decide
  internal_form n h := by
    obtain rfl := one_internal.1 h
    rw [one_root]; decide
  invalid_form n h := by
    rw [one_node] at h ⊢
    split_ifs at h ⊢ <;> simp_all [leafRecord]
  left_child n h := by
    obtain rfl := one_internal.1 h
    rw [one_root, one_left]; decide
  right_child n h hr := by
    obtain rfl := one_internal.1 h
    rw [one_root] at hr
    exact absurd rfl hr
  one_child n h _ := by
    obtain rfl := one_internal.1 h
    rw [one_root]
    exact ⟨rfl, one_leaf.2 rfl⟩
  has_parent c h hc := by
    rcases one_valid.1 h with rfl | rfl
    · exact absurd rfl hc
    · exact ⟨256, one_child_iff.2 ⟨rfl, .inl rfl⟩⟩
  one_parent p q c hp hq _ := (one_child_iff.1 hp).1.trans (one_child_iff.1 hq).1.symm
  root_top p h := by
    rcases (one_child_iff.1 h).2 with h | h <;> exact absurd h (by decide)
  weight_sum n h := by
    obtain rfl := one_internal.1 h
    rw [one_root, one_left, one_nil]; decide

theorem abc_code (x : Byte) : codeAt abc.ctab x =
    if x = 0x63 then ⟨true, [true, false]⟩ else if x = 0x62 then ⟨true, [true, true]⟩
    else if x = 0x61 then ⟨true, [false]⟩ else CodeEntry.invalid := by
  simp only [abc]
  by_cases h₁ : x = 0x63
  · subst h₁; simp
  · rw [codeAt_codeSet_other _ _ h₁, if_neg h₁]
    by_cases h₂ : x = 0x62
    · subst h₂; simp
    · rw [codeAt_codeSet_other _ _ h₂, if_neg h₂]
      by_cases h₃ : x = 0x61
      · subst h₃; simp
      · rw [codeAt_codeSet_other _ _ h₃, if_neg h₃, codeAt_emptyCodes]

theorem abc_code_valid {x : Byte} (h : (codeAt abc.ctab x).valid = true) :
    x = 0x63 ∨ x = 0x62 ∨ x = 0x61 := by
  rw [abc_code] at h
  split_ifs at h with h₁ h₂ h₃
  · exact .inl h₁
  · exact .inr (.inl h₂)
  · exact .inr (.inr h₃)
  · simp [CodeEntry.invalid] at h

theorem one_code (x : Byte) :
    codeAt one.ctab x = if x = 0x61 then ⟨true, [false]⟩ else CodeEntry.invalid := by
  simp only [one]
  by_cases h₁ : x = 0x61
  · subst h₁; simp
  · rw [codeAt_codeSet_other _ _ h₁, if_neg h₁, codeAt_emptyCodes]

theorem one_code_valid {x : Byte} (h : (codeAt one.ctab x).valid = true) : x = 0x61 := by
  rw [one_code] at h
  split_ifs at h with h₁
  · exact h₁
  · simp [CodeEntry.invalid] at h

theorem abc_table : TableOk abc.node abc.root abc.ctab where
  valid_iff x := by
    rw [abc_leaf, abc_code]
    revert x; decide +kernel
  path x h := by
    rcases abc_code_valid h with rfl | rfl | rfl <;> decide +kernel
  length x h := by
    rcases abc_code_valid h with rfl | rfl | rfl <;> decide +kernel
  invalid_form x h := by
    rw [abc_code] at h ⊢
    split_ifs at h ⊢
    all_goals simp_all

theorem one_table : TableOk one.node one.root one.ctab where
  valid_iff x := by
    rw [one_leaf, one_code]
    revert x; decide +kernel
  path x h := by
    obtain rfl := one_code_valid h
    decide +kernel
  length x h := by
    obtain rfl := one_code_valid h
    decide +kernel
  invalid_form x h := by
    rw [one_code] at h ⊢
    split_ifs at h ⊢
    all_goals simp_all

theorem abc_inv : abc.Inv where
  sizes := by decide
  mem := by decide
  status := by decide
  nsym := by decide
  outLen := by decide
  nil := by decide +kernel
  tree := abc_shape
  codes := ⟨rfl, abc_table, ⟨0x62, by decide +kernel⟩, fun x h => by
    rcases abc_code_valid h with rfl | rfl | rfl <;> decide +kernel⟩

theorem one_inv : one.Inv where
  sizes := by decide
  mem := by decide
  status := by decide
  nsym := by decide
  outLen := by decide
  nil := by decide +kernel
  tree := one_shape
  codes := ⟨rfl, one_table, ⟨0x61, by decide +kernel⟩, fun x h => by
    obtain rfl := one_code_valid h
    decide +kernel⟩

/-- The invariant does not depend on what the buffers hold, on the lengths, or on what is pending. -/
theorem inv_with {s : State} (h : s.Inv) {m : Memory} {inLen pkLen dbufSize : Word} {w : Option Word}
    (hm : State.memOk { s with mem := m, dbufSize := dbufSize } = true)
    (hs : State.sizesOk { s with dbufSize := dbufSize } = true)
    (ho : s.outLen.toNat ≤ dbufSize.toNat) :
    State.Inv { s with
      mem := m, inLen := inLen, pkLen := pkLen, dbufSize := dbufSize, pending := w } where
  sizes := hs
  mem := hm
  status := h.status
  nsym := h.nsym
  outLen := ho
  nil := h.nil
  tree := h.tree
  codes := h.codes

/-! ### Witnesses: for each obligation with hypotheses, states and operands that meet them all -/

/-- A state with this command pending. -/
def busyWith (w : Word) : State := { State.reset with pending := some w }

/-- The smallest instance, with this input. -/
def smallInput (bytes : List Byte) : State :=
  { (State.resetWith ⟨4, 4, 4⟩).writeBytes Config.ibufBase bytes with
    inLen := BitVec.ofNat 32 bytes.length }

/-- The tree of vector BLD1 or BLD3, with this artifact in PBUF and room for four output bytes. -/
def abcSmall (bytes : List Byte) : State := { withPacked abc bytes with dbufSize := 4 }
def oneSmall (bytes : List Byte) : State := { withPacked one bytes with dbufSize := 4 }

/-- An event that writes nothing the machine keeps. -/
def readId : Transaction := { kind := 0b01, offset := 0, data := 0 }

theorem witness_DecodeOfEncodeIsIdentity : (Instr.illegalRsvd 0xFFFFFFF 0xF).wellFormed = true := by decide

theorem witness_EveryWordIsOneCommand :
    (0x10 : Word).extractLsb' 4 28 ≠ 0 ∧ ((7 : Word).extractLsb' 4 28 = 0 ∧ (7 : Word).extractLsb' 0 4 = 7)
      ∧ ((8 : Word).extractLsb' 4 28 = 0 ∧ 8 ≤ ((8 : Word).extractLsb' 0 4).toNat)
      ∧ ((15 : Word).extractLsb' 4 28 = 0 ∧ 8 ≤ ((15 : Word).extractLsb' 0 4).toNat) := by decide

theorem witness_StepRunsDecodedInstruction :
    (∃ s : State, s.schedule = [.bus readId])
      ∧ (∃ s : State, s.pending = some 1 ∧ s.schedule = [.core])
      ∧ ∃ s : State, s.pending = some 1 ∧ s.schedule = [] :=
  ⟨⟨{ State.reset with schedule := [.bus readId] }, rfl⟩,
    ⟨{ busyWith 1 with schedule := [.core] }, rfl, rfl⟩, ⟨busyWith 1, rfl, rfl⟩⟩

theorem witness_StepWithoutInstruction :
    (∃ s : State, s.pending = none ∧ s.schedule = [])
      ∧ (∃ s : State, s.pending = none ∧ s.schedule = [.core])
      ∧ ∃ s : State, s.pending = some 1 ∧ s.schedule = [.reset] :=
  ⟨⟨State.reset, rfl, rfl⟩, ⟨{ State.reset with schedule := [.core] }, rfl, rfl⟩,
    ⟨{ busyWith 1 with schedule := [.reset] }, rfl, rfl⟩⟩

theorem witness_PlacedWordRunsNext :
    (decodeTableWord 8 1 = some (.rd32 0) ∧ (Instr.rd32 0).isCommand = false)
      ∧ decodeTableWord 32 1 = some .count ∧ Instr.count.isCommand = true := by decide

theorem witness_CmdWriteIssuesCommand :
    State.reset.pending = none ∧ (busyWith 1).pending ≠ none := by decide

theorem witness_CompletionUpdatesStatus :
    (exec (decodeCommand 0) State.reset = .next (run .nop State.reset)
      ∧ (run .nop State.reset).lastErr = .ok)
    ∧ exec (decodeCommand 7) State.reset = .next (run .illegalOp7 State.reset)
      ∧ (run .illegalOp7 State.reset).lastErr ≠ .ok :=
  ⟨⟨runs (by decide) _, rfl⟩, runs (by decide) _, by decide⟩

theorem witness_ErrorWritesStatusOnly :
    exec .illegalOp7 State.reset = .next (run .illegalOp7 State.reset)
      ∧ (run .illegalOp7 State.reset).lastErr ≠ .ok := ⟨runs (by decide) _, by decide⟩

theorem witness_CommandsKeepHostState :
    Instr.count.isCommand = true ∧ (input [1]).sizesOk = true
      ∧ exec .count (input [1]) = .next (run .count (input [1]))
      ∧ 65535 < (input [1]).ibufSize.toNat := ⟨rfl, by decide, runs (by decide) _, by decide⟩

theorem witness_OnlyBuildGenClrWriteTables :
    exec .pack abc = .next (run .pack abc) ∧ exec .gen abc = .next (run .gen abc) :=
  ⟨runs (by decide) _, exec_of_after (by decide +kernel)⟩

theorem witness_BusyBlockKeepsState : (busyWith 1).pending ≠ none
    ∧ exec (.wr32 0x010 3) (busyWith 1) = .next (run (.wr32 0x010 3) (busyWith 1)) :=
  ⟨by decide, runs (by decide) _⟩

theorem witness_StickyClearedOnlyByWriteOne :
    (run .illegalOp7 State.reset).errSticky = true
      ∧ exec (.wr32 0x008 0x10000) (run .illegalOp7 State.reset) =
          .next (run (.wr32 0x008 0x10000) (run .illegalOp7 State.reset)) := ⟨rfl, runs (by decide) _⟩

theorem witness_ResetMeetsInvariant :
    Config.defaults.ok = true ∧ (Config.Params.ok ⟨4, 4, 4⟩) = true
      ∧ (Config.Params.ok ⟨0x1000000, 0x1000000, 0x1000000⟩) = true := by decide

theorem witness_StepKeepsInvariant : abc.Inv ∧ step abc = .next abc := ⟨abc_inv, rfl⟩

theorem witness_NoStepStops : ∃ s : State, s.Inv ∧ s.pending = some 3 ∧ s.treeValid = true :=
  ⟨{ abc with pending := some 3 }, inv_with abc_inv (by decide) (by decide) (by decide), rfl, rfl⟩

theorem witness_EveryRunEnds : ∃ s : State, s.Inv ∧ s.pending = some 5 :=
  ⟨{ one with pending := some 5 }, inv_with one_inv (by decide) (by decide) (by decide), rfl⟩

theorem witness_IllegalWordsReport : (1 : BitVec 28) ≠ 0 ∧ (0x8000000 : BitVec 28) ≠ 0 := by decide

theorem witness_CountBuildsHistogram :
    (State.sizesOk { State.reset with inLen := 65537 } = true ∧ (65536 : Word).toNat < (65537 : Word).toNat)
      ∧ (input []).sizesOk = true ∧ (input []).inLen.toNat ≤ (input []).ibufSize.toNat
      ∧ (smallInput [1, 2, 3, 4]).inLen.toNat ≤ (smallInput [1, 2, 3, 4]).ibufSize.toNat := by decide

theorem witness_CountIgnoresByteOrder :
    (input [2, 1]).inLen = (input [1, 2]).inLen
      ∧ (input [1, 2]).inLen.toNat ≤ (input [1, 2]).ibufSize.toNat
      ∧ ((List.range (input [1, 2]).inLen.toNat).map (input [1, 2]).ibufByte).Perm
          ((List.range (input [1, 2]).inLen.toNat).map (input [2, 1]).ibufByte)
      ∧ exec .count (input [1, 2]) = .next (run .count (input [1, 2]))
      ∧ exec .count (input [2, 1]) = .next (run .count (input [2, 1])) :=
  ⟨by decide, by decide, by decide +kernel, runs (by decide) _, runs (by decide) _⟩

theorem witness_BuildOnEmptyHistogram : ∃ s : State, ∀ x, histAt s.hist x = 0 :=
  ⟨State.reset, histAt_emptyHist⟩

theorem witness_BuildReplacesTreeAndTable : ∃ x, histAt abcCounts.hist x ≠ 0 := ⟨0x61, by decide +kernel⟩

theorem witness_BuildDependsOnHistogramOnly :
    (busyWith 0).hist = State.reset.hist
      ∧ ({ abcCounts with inLen := 9 } : State).hist = abcCounts.hist
      ∧ (∃ x, histAt abcCounts.hist x ≠ 0)
      ∧ exec .build abcCounts = .next (run .build abcCounts)
      ∧ exec .build { abcCounts with inLen := 9 } = .next (run .build { abcCounts with inLen := 9 }) :=
  ⟨rfl, rfl, ⟨0x61, by decide +kernel⟩, runs (by decide) _, runs (by decide) _⟩

theorem witness_BuildValidRecords : (∃ x, histAt abcCounts.hist x ≠ 0)
    ∧ exec .build abcCounts = .next abcTree := ⟨⟨0x61, by decide +kernel⟩, runs (by decide) _⟩

theorem witness_BuildLeafRecords : histAt abcCounts.hist 0x61 ≠ 0
    ∧ exec .build abcCounts = .next abcTree := ⟨by decide +kernel, runs (by decide) _⟩

theorem witness_BuildSingleSymbolTree : histAt (counts [(0xFF, 3)]).hist 0xFF ≠ 0
    ∧ ∀ y, y ≠ 0xFF → histAt (counts [(0xFF, 3)]).hist y = 0 :=
  ⟨by decide +kernel, fun y h =>
    (histAt_histSet_other emptyHist 3 h).trans (histAt_emptyHist y)⟩

theorem witness_BuildTreeHasShape : (∃ x, histAt (counts [(0, 1)]).hist x ≠ 0)
    ∧ exec .build (counts [(0, 1)]) = .next (run .build (counts [(0, 1)])) :=
  ⟨⟨0, by decide +kernel⟩, runs (by decide) _⟩

theorem witness_BuildRootWeighsHistogram : (∃ x, histAt (counts [(0xFF, 0xFFFFFFFF)]).hist x ≠ 0)
    ∧ exec .build (counts [(0xFF, 0xFFFFFFFF)]) = .next (run .build (counts [(0xFF, 0xFFFFFFFF)])) :=
  ⟨⟨0xFF, by decide +kernel⟩, runs (by decide) _⟩

theorem witness_ExtractMinTakesLeast : [QEntry.mk 3 0 0, QEntry.mk 3 1 1] ≠ [] := by decide

theorem witness_BuildMergesInOrder : (∃ x, histAt abcCounts.hist x ≠ 0)
    ∧ exec .build abcCounts = .next abcTree ∧ (nodeAt abcTree.node 256).right ≠ Config.nilIdx
    ∧ ((nodeAt abcTree.node 256).valid = true ∧ (nodeAt abcTree.node 256).leaf = false)
    ∧ ((nodeAt abcTree.node 257).valid = true ∧ (nodeAt abcTree.node 257).leaf = false) :=
  ⟨⟨0x61, by decide +kernel⟩, runs (by decide) _, by decide +kernel, by decide +kernel, by decide +kernel⟩

theorem witness_GenWithoutTree : State.reset.treeValid = false := rfl

theorem witness_GenCodesAreLeafPaths : abc.Inv ∧ abc.treeValid = true := ⟨abc_inv, rfl⟩

theorem witness_CodesArePrefixFree : abc.Inv ∧ (0x61 : Byte) ≠ 0x62
    ∧ (codeAt abc.ctab 0x61).valid = true ∧ (codeAt abc.ctab 0x62).valid = true :=
  ⟨abc_inv, by decide, by decide +kernel, by decide +kernel⟩

theorem witness_CodesAreComplete :
    (abc.Inv ∧ abc.ctValid = true ∧ (nodeAt abc.node abc.root).right ≠ Config.nilIdx)
      ∧ one.Inv ∧ one.ctValid = true ∧ (nodeAt one.node one.root).right = Config.nilIdx :=
  ⟨⟨abc_inv, rfl, by decide +kernel⟩, one_inv, rfl, by decide +kernel⟩

/-- "abc" in IBUF over the table of vector GEN1. -/
def abcInput : State :=
  { abc.writeBytes Config.ibufBase [0x61, 0x62, 0x63] with inLen := 3 }

theorem witness_PackWritesArtifact : abcInput.Inv
    ∧ abcInput.inLen.toNat ≤ abcInput.ibufSize.toNat
    ∧ (∀ k, k < abcInput.inLen.toNat → (codeAt abcInput.ctab (abcInput.ibufByte k)).valid = true)
    ∧ [false, true, true, true, false] =
        abcInput.codesOf ((List.range abcInput.inLen.toNat).map abcInput.ibufByte)
    ∧ 4 + (5 + 7) / 8 ≤ abcInput.pbufSize.toNat :=
  ⟨inv_with abc_inv (by decide) (by decide) (by decide), by decide, by decide +kernel,
    by decide +kernel, by decide⟩

/-- One input byte with a one-bit code, and no room for a payload byte. -/
def fullPack : State :=
  { smallInput [0x61] with ctab := codeSet emptyCodes 0x61 ⟨true, [false]⟩ }

theorem witness_PackReportsFirstError :
    (({ State.reset with inLen := 65537 } : State).ibufSize.toNat < (65537 : Word).toNat)
    ∧ ((smallInput [0x61, 0x61, 0x61, 7]).inLen.toNat ≤ (smallInput [0x61, 0x61, 0x61, 7]).ibufSize.toNat
      ∧ (codeAt one.ctab ((smallInput [0x61, 0x61, 0x61, 7]).ibufByte 3)).valid = false
      ∧ ∀ j, j < 3 → (codeAt one.ctab ((smallInput [0x61, 0x61, 0x61, 7]).ibufByte j)).valid = true)
    ∧ fullPack.sizesOk = true ∧ fullPack.inLen.toNat ≤ fullPack.ibufSize.toNat
      ∧ (∀ k, k < fullPack.inLen.toNat → (codeAt fullPack.ctab (fullPack.ibufByte k)).valid = true)
      ∧ [false] = fullPack.codesOf ((List.range fullPack.inLen.toNat).map fullPack.ibufByte)
      ∧ fullPack.pbufSize.toNat < 4 + (1 + 7) / 8 := by
  refine ⟨by decide, ⟨by decide, by decide +kernel, by decide +kernel⟩, by decide, by decide,
    by decide +kernel, by decide +kernel, by decide⟩

theorem witness_PackOfNothing : State.reset.sizesOk = true ∧ State.reset.inLen = 0 := by decide

theorem witness_PackKeepsOtherBytes :
    (exec .pack abcInput = .next (run .pack abcInput) ∧ (run .pack abcInput).pkLen = 5
      ∧ Config.pbufBase + (run .pack abcInput).pkLen.toNat ≤ 0x02000005)
    ∧ exec .pack fullPack = .next (run .pack fullPack) ∧ (run .pack fullPack).lastErr ≠ .ok :=
  ⟨⟨runs (by decide) _, by decide +kernel, by decide +kernel⟩, runs (by decide) _, by decide +kernel⟩

/-- No tree, with these bytes in PBUF. -/
def packed (bytes : List Byte) : State := withPacked State.reset bytes

theorem witness_UnpackChecksArtifact :
    (({ State.reset with pkLen := 131073 } : State).pbufSize.toNat < (131073 : Word).toNat)
    ∧ (packed [0, 0, 0]).pkLen.toNat < 4
    ∧ ((packed [0, 0, 0, 1]).pbufByte 3 = 1 ∧ 4 ≤ (packed [0, 0, 0, 1]).pkLen.toNat
      ∧ (packed [0, 0, 0, 1]).pkLen.toNat ≠ 4 + (1 + 7) / 8)
    ∧ ((packed [0, 0, 0, 1, 0]).pbufByte 3 = 1 ∧ (packed [0, 0, 0, 1, 0]).pkLen.toNat = 4 + (1 + 7) / 8
      ∧ (packed [0, 0, 0, 1, 0]).treeValid = false) := by decide +kernel

theorem witness_UnpackOfNothing : (packed [0, 0, 0, 0]).holdsArtifact [] := by
  unfold State.holdsArtifact; decide +kernel

theorem witness_UnpackKeepsOtherBytes :
    (exec .unpack (abcSmall [0, 0, 0, 1, 0]) = .next (run .unpack (abcSmall [0, 0, 0, 1, 0]))
      ∧ (run .unpack (abcSmall [0, 0, 0, 1, 0])).lastErr = .ok
      ∧ Config.dbufBase + (run .unpack (abcSmall [0, 0, 0, 1, 0])).outLen.toNat ≤ 0x03000001)
    ∧ exec .unpack State.reset = .next (run .unpack State.reset)
      ∧ (run .unpack State.reset).lastErr ≠ .ok :=
  ⟨⟨runs (by decide) _, by decide +kernel, by decide +kernel⟩, runs (by decide) _, by decide +kernel⟩

theorem witness_UnpackIgnoresPadding :
    abcSmall [0, 0, 0, 1, 0x7F] =
        { abcSmall [0, 0, 0, 1, 0] with mem := (abcSmall [0, 0, 0, 1, 0x7F]).mem }
      ∧ (∀ k, k < 4 → (abcSmall [0, 0, 0, 1, 0x7F]).pbufByte k = (abcSmall [0, 0, 0, 1, 0]).pbufByte k)
      ∧ (∀ k, k < 1 → ((abcSmall [0, 0, 0, 1, 0x7F]).pbufByte (4 + k / 8)).getLsbD (7 - k % 8) =
          ((abcSmall [0, 0, 0, 1, 0]).pbufByte (4 + k / 8)).getLsbD (7 - k % 8))
      ∧ (abcSmall [0, 0, 0, 1, 0]).pbufByte 3 = 1
      ∧ exec .unpack (abcSmall [0, 0, 0, 1, 0]) = .next (run .unpack (abcSmall [0, 0, 0, 1, 0]))
      ∧ exec .unpack (abcSmall [0, 0, 0, 1, 0x7F]) = .next (run .unpack (abcSmall [0, 0, 0, 1, 0x7F]))
      ∧ (run .unpack (abcSmall [0, 0, 0, 1, 0])).lastErr = .ok :=
  ⟨rfl, by decide +kernel, by decide +kernel, by decide +kernel,
    runs (by decide) _, runs (by decide) _, by decide +kernel⟩

theorem witness_UnpackDecodesCodes : (abcSmall [0, 0, 0, 5, 0x70]).Inv
    ∧ (abcSmall [0, 0, 0, 5, 0x70]).ctValid = true
    ∧ (∀ x ∈ [0x61, 0x62, 0x63], (codeAt (abcSmall [0, 0, 0, 5, 0x70]).ctab x).valid = true)
    ∧ (abcSmall [0, 0, 0, 5, 0x70]).holdsArtifact ((abcSmall [0, 0, 0, 5, 0x70]).codesOf [0x61, 0x62, 0x63])
    ∧ [0x61, 0x62, (0x63 : Byte)].length ≤ (abcSmall [0, 0, 0, 5, 0x70]).dbufSize.toNat :=
  ⟨inv_with abc_inv (by decide) (by decide) (by decide), rfl, by decide +kernel,
    by unfold State.holdsArtifact; decide +kernel, by decide⟩

theorem witness_UnpackMidCode : (abcSmall [0, 0, 0, 2, 0x40]).Inv
    ∧ (abcSmall [0, 0, 0, 2, 0x40]).ctValid = true
    ∧ (∀ y ∈ [0x61], (codeAt (abcSmall [0, 0, 0, 2, 0x40]).ctab y).valid = true)
    ∧ (codeAt (abcSmall [0, 0, 0, 2, 0x40]).ctab 0x62).valid = true
    ∧ [true] <+: (codeAt (abcSmall [0, 0, 0, 2, 0x40]).ctab 0x62).bits ∧ [true] ≠ []
    ∧ [true] ≠ (codeAt (abcSmall [0, 0, 0, 2, 0x40]).ctab 0x62).bits
    ∧ (abcSmall [0, 0, 0, 2, 0x40]).holdsArtifact ((abcSmall [0, 0, 0, 2, 0x40]).codesOf [0x61] ++ [true])
    ∧ [(0x61 : Byte)].length ≤ (abcSmall [0, 0, 0, 2, 0x40]).dbufSize.toNat :=
  ⟨inv_with abc_inv (by decide) (by decide) (by decide), rfl, by decide +kernel, by decide +kernel,
    by decide +kernel, by decide, by decide +kernel,
    by unfold State.holdsArtifact; decide +kernel, by decide⟩

theorem witness_UnpackOutputOverflow : (abcSmall [0, 0, 0, 7, 0x0E]).Inv
    ∧ (abcSmall [0, 0, 0, 7, 0x0E]).ctValid = true
    ∧ (∀ y ∈ List.replicate 4 0x61, (codeAt (abcSmall [0, 0, 0, 7, 0x0E]).ctab y).valid = true)
    ∧ (codeAt (abcSmall [0, 0, 0, 7, 0x0E]).ctab 0x62).valid = true
    ∧ (abcSmall [0, 0, 0, 7, 0x0E]).holdsArtifact
        ((abcSmall [0, 0, 0, 7, 0x0E]).codesOf (List.replicate 4 0x61)
          ++ (codeAt (abcSmall [0, 0, 0, 7, 0x0E]).ctab 0x62).bits ++ [true])
    ∧ (List.replicate 4 (0x61 : Byte)).length = (abcSmall [0, 0, 0, 7, 0x0E]).dbufSize.toNat :=
  ⟨inv_with abc_inv (by decide) (by decide) (by decide), rfl, by decide +kernel, by decide +kernel,
    by unfold State.holdsArtifact; decide +kernel, by decide⟩

theorem witness_UnpackAbsentChild :
    ((oneSmall [0, 0, 0, 5, 0x08]).Inv ∧ (oneSmall [0, 0, 0, 5, 0x08]).treeValid = true
      ∧ (nodeAt (oneSmall [0, 0, 0, 5, 0x08]).node (oneSmall [0, 0, 0, 5, 0x08]).root).right = Config.nilIdx
      ∧ (oneSmall [0, 0, 0, 5, 0x08]).holdsArtifact (List.replicate 4 false ++ [true])
      ∧ 4 ≤ (oneSmall [0, 0, 0, 5, 0x08]).dbufSize.toNat)
    ∧ (abcSmall [0, 0, 0, 1, 0x80]).Inv ∧ (abcSmall [0, 0, 0, 1, 0x80]).treeValid = true
      ∧ (nodeAt (abcSmall [0, 0, 0, 1, 0x80]).node (abcSmall [0, 0, 0, 1, 0x80]).root).right ≠ Config.nilIdx
      ∧ exec .unpack (abcSmall [0, 0, 0, 1, 0x80]) = .next (run .unpack (abcSmall [0, 0, 0, 1, 0x80])) :=
  ⟨⟨inv_with one_inv (by decide) (by decide) (by decide), rfl, by decide +kernel,
      by unfold State.holdsArtifact; decide +kernel, by decide⟩,
    inv_with abc_inv (by decide) (by decide) (by decide), rfl, by decide +kernel, runs (by decide) _⟩

/-- The pipeline on "aab", and on the empty input. -/
def trip : State := input [0x61, 0x61, 0x62]
def tripTree : State := run .build (run .count trip)
def emptyCount : State := run .count (input [])

theorem witness_RoundTripOfPipeline :
    (trip.sizesOk = true ∧ trip.inLen.toNat ≤ trip.dbufSize.toNat
      ∧ exec .count trip = .next (run .count trip) ∧ (run .count trip).lastErr = .ok
      ∧ exec .build (run .count trip) = .next tripTree ∧ tripTree.lastErr = .ok
      ∧ exec .gen tripTree = .next (run .gen tripTree) ∧ (run .gen tripTree).lastErr = .ok
      ∧ exec .pack (run .gen tripTree) = .next (run .pack (run .gen tripTree))
      ∧ (run .pack (run .gen tripTree)).lastErr = .ok)
    ∧ (input []).sizesOk = true ∧ (input []).inLen = 0
      ∧ exec .count (input []) = .next emptyCount
      ∧ exec .build emptyCount = .next (run .build emptyCount)
      ∧ exec .gen (run .build emptyCount) = .next (run .gen (run .build emptyCount))
      ∧ exec .pack (run .gen (run .build emptyCount)) =
          .next (run .pack (run .gen (run .build emptyCount))) :=
  ⟨⟨by decide, by decide, runs (by decide) _, by decide +kernel, runs (by decide) _, by decide +kernel,
      exec_of_after (by decide +kernel), by decide +kernel, runs (by decide) _, by decide +kernel⟩,
    by decide, by decide, runs (by decide) _, runs (by decide) _, exec_of_after (by decide +kernel),
    runs (by decide) _⟩

theorem witness_BusErrorsAreExactlyRefused :
    (Instr.isCommand (.rd32 0x041) = false ∧ State.reset.busError (.rd32 0x041)
      ∧ State.reset.busError (.rd32 0x040) ∧ State.reset.busError (.rd8 0x00FFFFFF)
      ∧ (busyWith 1).busError (.wr8 0x01000000 0))
    ∧ ¬ State.reset.busError (.rd32 0x03C) ∧ ¬ State.reset.busError (.wr32 0x0100FFFC 0)
      ∧ ¬ State.reset.busError (.rd8 0x0100FFFF) ∧ ¬ (busyWith 1).busError (.wr32 0x010 0) := by
  simp only [State.busError, State.refused32, State.refused8]
  refine ⟨⟨?_, ?_, ?_, ?_, ?_⟩, ?_, ?_, ?_, ?_⟩ <;> decide

theorem witness_RegisterReads : ∃ s : State, s.pending ≠ none ∧ s.statusWord = 1 :=
  ⟨busyWith 1, by decide⟩

theorem witness_RegisterWrites : State.reset.pending = none := rfl

theorem witness_HistWindow : (0x7FC : Word) = BitVec.ofNat 32 (0x400 + 4 * (0xFF : Byte).toNat)
    ∧ (0x400 : Word) = BitVec.ofNat 32 (0x400 + 4 * (0 : Byte).toNat)
    ∧ State.reset.pending = none ∧ (busyWith 1).pending ≠ none := by decide

theorem witness_NodeWindow : abc.pending = none := rfl

theorem witness_CodeWindow : abc.pending = none ∧ (codeAt abc.ctab 0x62).bits.length ≤ 255
    ∧ (codeAt abc.ctab 0xFF).bits.length ≤ 255 := by decide +kernel

theorem witness_BufferWindows : State.reset.sizesOk = true ∧ State.reset.pending = none
    ∧ (0x01000000, (65536 : Word)) ∈ [(Config.ibufBase, State.reset.ibufSize),
        (Config.pbufBase, State.reset.pbufSize), (Config.dbufBase, State.reset.dbufSize)]
    ∧ (0x03000000, (65536 : Word)) ∈ [(Config.ibufBase, State.reset.ibufSize),
        (Config.pbufBase, State.reset.pbufSize), (Config.dbufBase, State.reset.dbufSize)]
    ∧ 65535 < (65536 : Word).toNat ∧ 65532 < (65536 : Word).toNat ∧ 65532 % 4 = 0
    ∧ (0x0300FFFF : Word) = BitVec.ofNat 32 (0x03000000 + 65535) := by decide

theorem witness_InterruptLevel :
    (exec .nop { State.reset with doneEn := true } = .next (run .nop { State.reset with doneEn := true }))
    ∧ exec .illegalOp7 { State.reset with errEn := true } =
        .next (run .illegalOp7 { State.reset with errEn := true })
      ∧ (run .illegalOp7 { State.reset with errEn := true }).lastErr ≠ .ok := 
  ⟨runs (by decide) _, runs (by decide) _, by decide⟩

end Sys2Proof.Tests
end

/-! PROOFS. What one step is, per head of the schedule, and that no command stops the machine while NODE
and ROOT hold a tree of BUILD; then the obligations of 00_scope. -/

namespace Sys2Proof.Machine

/-! ### Steps (00_scope R16, 45_control R211, R245, R260) -/

theorem coreTurn_pending {s : State} {w : Word} (h : s.pending = some w) :
    coreTurn s = .run (decodeCommand w) s := by
  simp [coreTurn, h]

theorem coreTurn_idle {s : State} (h : s.pending = none) : coreTurn s = .settled s := by
  simp [coreTurn, h]

theorem step_of_fetch_run {s s' : State} {i : Instr} (h : fetch s = .run i s') : step s = exec i s' := by
  simp [step, h]

theorem step_of_fetch_settled {s s' : State} (h : fetch s = .settled s') : step s = .next s' := by
  simp [step, h]

theorem fetch_bus {s : State} {t : Transaction} {events : List Event} (h : s.schedule = .bus t :: events) :
    fetch s = .run (decodeTransaction t) { s with schedule := events } := by
  simp [fetch, h]

theorem fetch_core {s : State} {events : List Event} (h : s.schedule = .core :: events) :
    fetch s = coreTurn { s with schedule := events } := by
  simp [fetch, h]

theorem fetch_reset {s : State} {events : List Event} (h : s.schedule = .reset :: events) :
    fetch s = .settled (State.resetEvent { s with schedule := events }) := by
  simp [fetch, h]

theorem fetch_empty {s : State} (h : s.schedule = []) : fetch s = coreTurn s := by
  simp [fetch, h]

theorem step_bus {s : State} {t : Transaction} {events : List Event} (h : s.schedule = .bus t :: events) :
    step s = exec (decodeTransaction t) { s with schedule := events } :=
  step_of_fetch_run (fetch_bus h)

theorem step_core_pending {s : State} {w : Word} {events : List Event} (hp : s.pending = some w)
    (h : s.schedule = .core :: events) : step s = exec (decodeCommand w) { s with schedule := events } :=
  step_of_fetch_run ((fetch_core h).trans (coreTurn_pending hp))

theorem step_core_idle {s : State} {events : List Event} (hp : s.pending = none)
    (h : s.schedule = .core :: events) : step s = .next { s with schedule := events } :=
  step_of_fetch_settled ((fetch_core h).trans (coreTurn_idle hp))

theorem step_empty_pending {s : State} {w : Word} (hp : s.pending = some w) (h : s.schedule = []) :
    step s = exec (decodeCommand w) s :=
  step_of_fetch_run ((fetch_empty h).trans (coreTurn_pending hp))

theorem step_empty_idle {s : State} (hp : s.pending = none) (h : s.schedule = []) : step s = .next s :=
  step_of_fetch_settled ((fetch_empty h).trans (coreTurn_idle hp))

theorem step_reset {s : State} {events : List Event} (h : s.schedule = .reset :: events) :
    step s = .next (State.resetEvent { s with schedule := events }) :=
  step_of_fetch_settled (fetch_reset h)

/-- A step runs one instruction with at most the schedule changed before it, or it simply goes on. -/
theorem step_exec_or_next (s : State) :
    (∃ i events, step s = exec i { s with schedule := events }) ∨ ∃ t, step s = .next t := by
  match hs : s.schedule with
  | [] =>
    rcases Option.eq_none_or_eq_some s.pending with hp | ⟨w, hp⟩
    · exact .inr ⟨_, step_empty_idle hp hs⟩
    · exact .inl ⟨_, s.schedule, step_empty_pending hp hs⟩
  | .bus _ :: _ => exact .inl ⟨_, _, step_bus hs⟩
  | .core :: _ =>
    rcases Option.eq_none_or_eq_some s.pending with hp | ⟨w, hp⟩
    · exact .inr ⟨_, step_core_idle hp hs⟩
    · exact .inl ⟨_, _, step_core_pending hp hs⟩
  | .reset :: _ => exact .inr ⟨_, step_reset hs⟩

/-! ### The two encoded spaces (30_encoding R90, R95) -/

theorem decodeTransaction_isCommand (t : Transaction) : (decodeTransaction t).isCommand = false := by
  unfold decodeTransaction
  split <;> rfl

/-- What a table row's bits decode to: a command word for 32 bits, a transaction for any other number. -/
theorem decodeTableWord_some {nbits w : Nat} {i : Instr} (h : decodeTableWord nbits w = some i) :
    (nbits = commandBits ∧ i = decodeCommand (BitVec.ofNat 32 w))
      ∨ (nbits ≠ commandBits ∧ i = decodeTransaction (transactionOfBits w)) := by
  unfold decodeTableWord decodeBits at h
  split_ifs at h with hn hw hw hk
  · exact .inl ⟨hn, by simpa using h.symm⟩
  · exact .inr ⟨hn, by simpa using h.symm⟩

theorem withFetchWord_command (s : State) (w : Nat) : s.withFetchWord commandBits w =
    { s with pending := some (BitVec.ofNat 32 w), schedule := .core :: s.schedule } := by
  simp [State.withFetchWord, placeWord]

theorem withFetchWord_transaction (s : State) {nbits : Nat} (w : Nat) (h : nbits ≠ commandBits) :
    s.withFetchWord nbits w = { s with schedule := .bus (transactionOfBits w) :: s.schedule } := by
  simp [State.withFetchWord, placeWord, h]

/-- Settles O4, one equation of `step` per case of the schedule. -/
theorem stepRunsDecodedInstruction : Obligations.StepRunsDecodedInstruction :=
  ⟨fun _ _ _ hs => step_bus hs, fun _ _ _ hp hs => step_core_pending hp hs,
    fun _ _ hp hs => step_empty_pending hp hs⟩

/-- Settles O6: the placed word fixes the head of the schedule, and its space fixes whether it is a
command. -/
theorem placedWordRunsNext : Obligations.PlacedWordRunsNext := by
  intro s nbits w i hd
  rcases decodeTableWord_some hd with ⟨rfl, rfl⟩ | ⟨hn, rfl⟩
  · have hc := Laws.Space.decodeCommand_isCommand (BitVec.ofNat 32 w)
    refine ⟨fun hi => absurd hc (by simp [hi]), fun _ => ?_⟩
    rw [withFetchWord_command]
    exact step_core_pending rfl rfl
  · have hc := decodeTransaction_isCommand (transactionOfBits w)
    refine ⟨fun _ => ?_, fun hi => absurd hc (by simp [hi])⟩
    rw [withFetchWord_transaction s w hn]
    exact step_bus rfl

/-! ### Errors (45_control R211, 60_exceptions R232) -/

/-- Everything a command that goes on can do: it completes with its rule's writes, or with an error and
without them (R211, R212). -/
theorem exec_command_next {i : Instr} {s t : State} (hi : i.isCommand = true) (h : exec i s = .next t) :
    (∃ u, commandResult i s = some (.ok u) ∧ t = u.succeeded (commandOp i))
      ∨ ∃ e, commandResult i s = some (.error e)
          ∧ t = s.failed (commandOp i) e.code e.sub e.pos := by
  rw [exec_command hi] at h
  cases hr : commandResult i s with
  | none => simp [hr] at h
  | some r =>
    cases r with
    | ok u => exact .inl ⟨u, rfl, by simpa [hr] using h.symm⟩
    | error e => exact .inr ⟨e, rfl, by simpa [hr] using h.symm⟩

/-- Settles O10: of a command's two completions only the one without its writes leaves an error. -/
theorem errorWritesStatusOnly : Obligations.ErrorWritesStatusOnly := by
  intro i s t hi h he
  rcases exec_command_next hi h with ⟨u, _, rfl⟩ | ⟨e, _, rfl⟩
  · exact absurd (State.succeeded_lastErr _ _) he
  · rfl

/-! ### Every command has an outcome (45_control R216) -/

/-- A record index below another one is not NIL, the greatest (R9). -/
theorem ne_nilIdx_of_lt {c n : NodeIdx} (h : c.toNat < n.toNat) : c ≠ Config.nilIdx := by
  simp only [Config.nilIdx]
  bv_omega

/-- The walk of GEN ends: an internal record has an index of at least 256 and children of lower index
(R138 (c)), so `depth` more bits reach a leaf from a record of index at most 255 + depth. -/
theorem codeWalk_isSome {nodes : NodeMem} {root : NodeIdx} (hT : TreeShape nodes root) (depth : Nat)
    (n : NodeIdx) (path : List Bool) (hv : (nodeAt nodes n).valid = true) (hn : n.toNat ≤ 255 + depth) :
    (codeWalk nodes depth n path).isSome = true := by
  induction depth generalizing n path with
  | zero =>
    cases hl : (nodeAt nodes n).leaf with
    | true => simp [codeWalk_leaf nodes 0 n path hl]
    | false =>
      have := (hT.internal_form n ⟨hv, hl⟩).1
      omega
  | succ depth ih =>
    cases hl : (nodeAt nodes n).leaf with
    | true => simp [codeWalk_leaf nodes _ n path hl]
    | false =>
      obtain ⟨hvl, hltl⟩ := hT.left_child n ⟨hv, hl⟩
      obtain ⟨l, hwl⟩ := Option.isSome_iff_exists.1
        (ih (nodeAt nodes n).left (path ++ [false]) hvl (by omega))
      have hlnil := ne_nilIdx_of_lt hltl
      by_cases hrnil : (nodeAt nodes n).right = Config.nilIdx
      · simp [codeWalk, hl, hlnil, hrnil, hwl]
      · obtain ⟨hvr, hltr, _⟩ := hT.right_child n ⟨hv, hl⟩ hrnil
        obtain ⟨r, hwr⟩ := Option.isSome_iff_exists.1
          (ih (nodeAt nodes n).right (path ++ [true]) hvr (by omega))
        simp [codeWalk, hl, hlnil, hrnil, hwl, hwr]

/-- GEN makes a table of every tree of BUILD: ROOT's index is at most 510 = 255 + 255. -/
theorem genTable_isSome {nodes : NodeMem} {root : NodeIdx} (hT : TreeShape nodes root) :
    (genTable nodes root).isSome = true := by
  obtain ⟨_, hne, _⟩ := hT.internal_form root hT.root_internal
  have hroot : root.toNat ≤ 255 + Config.maxCodeLen := by
    simp only [Config.nilIdx, Config.maxCodeLen] at hne ⊢
    bv_omega
  simpa [genTable] using codeWalk_isSome hT Config.maxCodeLen root [] hT.root_internal.1 hroot

/-- Every command's rule has a result when NODE, ROOT and TREE_VALID agree (R44). -/
theorem commandResult_isSome {i : Instr} {s : State} (hi : i.isCommand = true) (hT : s.treeOk) :
    (commandResult i s).isSome = true := by
  cases i with
  | gen =>
    cases hv : s.treeValid with
    | false => simp [commandResult, hv]
    | true =>
      have hS : TreeShape s.node s.root := by simpa [State.treeOk, hv] using hT
      simpa [commandResult, hv] using genTable_isSome hS
  | rd8 _ | rd32 _ | wr8 _ _ | wr32 _ _ => cases hi
  | _ => rfl

/-- No instruction stops the machine when NODE, ROOT and TREE_VALID agree (R44). -/
theorem exec_next_of_treeOk (i : Instr) {s : State} (hT : s.treeOk) : ∃ t, exec i s = .next t := by
  cases hi : i.isCommand with
  | true =>
    obtain ⟨r, hr⟩ := Option.isSome_iff_exists.1 (commandResult_isSome hi hT)
    exact ⟨_, by rw [exec_command hi, hr]⟩
  | false =>
    rcases exec_transaction hi s with ⟨_, h⟩ | ⟨_, _, _, _, _, h⟩ | ⟨_, _, _, _, _, h⟩ <;> exact ⟨_, h⟩

/-- Settles O17: a step goes on by itself or runs an instruction, and the tree of the invariant lets every
instruction go on. -/
theorem noStepStops : Obligations.NoStepStops := by
  intro s hInv
  rcases step_exec_or_next s with ⟨i, events, h⟩ | h
  · rw [h]
    exact exec_next_of_treeOk i (s := { s with schedule := events }) hInv.tree
  · exact h

end Sys2Proof.Machine

/-! PROOFS. BUILD's tree and GEN's table: the merges of BUILD keep a forest over the leaves and end in one tree
(41_tree_builder R138), and GEN's table holds the paths to its leaves (42_code_table R150 to R154). -/

namespace Sys2Proof.Machine

/-! ### ExtractMin and the priority container (41_tree_builder R131, R132) -/

/-- ExtractMin finds nothing in the empty container alone. -/
theorem extractMin_eq_none {q : List QEntry} : extractMin q = none ↔ q = [] := by
  cases q with
  | nil => simp [extractMin]
  | cons e q =>
    simp only [extractMin, reduceCtorEq, iff_false]
    split
    · simp
    · split <;> simp

/-- ExtractMin takes one entry out and keeps the others (R132). -/
theorem extractMin_perm {q : List QEntry} {m : QEntry} {rest : List QEntry}
    (h : extractMin q = some (m, rest)) : (m :: rest).Perm q := by
  induction q generalizing m rest with
  | nil => simp [extractMin] at h
  | cons e q ih =>
    rw [extractMin] at h
    split at h
    · rename_i hq
      rw [extractMin_eq_none.1 hq]
      simp_all
    · rename_i m' r' hq
      split at h <;> simp only [Option.some.injEq, Prod.mk.injEq] at h <;> obtain ⟨rfl, rfl⟩ := h
      · exact .refl _
      · exact (List.Perm.swap e m' r').trans ((ih hq).cons e)

/-! ### The leaves (41_tree_builder R131) -/

/-- The record of index `n` after the leaves are created: the leaf of a counted symbol, or invalid. -/
def leafAt (h : HistMem) (n : NodeIdx) : NodeRecord :=
  if histAt h (n.setWidth 8) = 0 then NodeRecord.invalid
  else leafRecord (n.setWidth 8) (histAt h (n.setWidth 8))

theorem setWidth_ofNat_idx (i : Nat) : (BitVec.ofNat 9 i).setWidth 8 = BitVec.ofNat 8 i := by
  apply BitVec.eq_of_toNat_eq
  simp

/-- The present symbols are the indices of the nonzero counts, each with its count (R131). -/
theorem mem_presentSymbols {h : HistMem} {v : Word} {i : Nat} :
    (v, i) ∈ presentSymbols h ↔ i < 256 ∧ v = histAt h (BitVec.ofNat 8 i) ∧ v ≠ 0 := by
  by_cases hi : i < 256
  · have hget : h.toList[i]? = some (histAt h (BitVec.ofNat 8 i)) := by
      rw [List.getElem?_eq_getElem (by simpa using hi)]
      simp [histAt, Nat.mod_eq_of_lt hi]
    simp only [presentSymbols, List.mem_filter, List.mem_zipIdx_iff_getElem?, hget, hi, true_and,
      Option.some.injEq, bne_iff_ne, @eq_comm _ v]
  · simp [presentSymbols, List.mem_zipIdx_iff_getElem?, hi]

/-- A record after a sequence of writes whose records are a function of their index. -/
theorem nodeAt_foldl_nodeSet {α : Type} (key : α → NodeIdx) (record : α → NodeRecord) (r : NodeRecord)
    (n : NodeIdx) (l : List α) (nodes : NodeMem) (hr : ∀ p ∈ l, key p = n → record p = r) :
    nodeAt (l.foldl (fun nodes p => nodeSet nodes (key p) (record p)) nodes) n =
      if n ∈ l.map key then r else nodeAt nodes n := by
  induction l generalizing nodes with
  | nil => simp
  | cons p l ih =>
    rw [List.foldl_cons, ih _ fun q hq => hr q (by simp [hq])]
    by_cases hl : n ∈ l.map key
    · simp only [List.map_cons, List.mem_cons, hl, or_true, if_true]
    · by_cases hp : n = key p
      · simp [hp, hr p (by simp) hp.symm]
      · simp only [List.map_cons, List.mem_cons, hl, hp, or_self, if_false]
        exact nodeAt_nodeSet_other _ _ hp

/-- The record indices of the present symbols. -/
theorem mem_presentSymbols_idx {h : HistMem} {n : NodeIdx} :
    n ∈ (presentSymbols h).map (fun p => BitVec.ofNat 9 p.2) ↔
      n.toNat < 256 ∧ histAt h (n.setWidth 8) ≠ 0 := by
  simp only [List.mem_map, Prod.exists, mem_presentSymbols]
  constructor
  · rintro ⟨_, i, ⟨hi, rfl, hv⟩, rfl⟩
    exact ⟨by simp; omega, by rwa [setWidth_ofNat_idx]⟩
  · rintro ⟨hn, hv⟩
    exact ⟨_, n.toNat, ⟨hn, rfl, by simpa using hv⟩, by simp⟩

/-- The node memory after the leaves are created: the leaves below 256, every other record invalid
(R131, R136). -/
theorem nodeAt_leafNodes (h : HistMem) (n : NodeIdx) :
    nodeAt (leafNodes h) n = if n.toNat < 256 then leafAt h n else NodeRecord.invalid := by
  rw [leafNodes, nodeAt_foldl_nodeSet (fun p => BitVec.ofNat 9 p.2)
    (fun p : Word × Nat => leafRecord (BitVec.ofNat 8 p.2) p.1)
    (leafRecord (n.setWidth 8) (histAt h (n.setWidth 8)))]
  · simp only [mem_presentSymbols_idx, nodeAt_emptyNodes, leafAt]
    by_cases hn : n.toNat < 256 <;> by_cases hv : histAt h (n.setWidth 8) = 0 <;> simp [hn, hv]
  · rintro ⟨_, i⟩ hp rfl
    obtain ⟨_, hv, _⟩ := mem_presentSymbols.1 hp
    simp only [setWidth_ofNat_idx, hv]

/-- The record indices of the first container are those of the present symbols, in their order. -/
theorem leafQueue_map_idx (h : HistMem) :
    (leafQueue h).map (·.idx) = (presentSymbols h).map fun p => BitVec.ofNat 9 p.2 := by
  simp only [leafQueue, List.map_map]
  conv_rhs => rw [← List.zipIdx_map_fst 0 (presentSymbols h), List.map_map]
  rfl

theorem leafQueue_map_weight (h : HistMem) :
    (leafQueue h).map (·.weight) = (presentSymbols h).map fun p => p.1.setWidth 40 := by
  simp only [leafQueue, List.map_map]
  conv_rhs => rw [← List.zipIdx_map_fst 0 (presentSymbols h), List.map_map]
  rfl

/-- One entry for each symbol with a nonzero count (R131). -/
theorem leafQueue_length (h : HistMem) : (leafQueue h).length = distinctSymbols h := by
  rw [distinctSymbols, ← List.zipIdx_map_fst 0 h.toList, List.countP_map, List.countP_eq_length_filter]
  simp [leafQueue, presentSymbols]
  rfl

theorem distinctSymbols_le (h : HistMem) : distinctSymbols h ≤ 256 := by
  simpa [distinctSymbols] using List.countP_le_length (p := (· != 0)) (l := h.toList)

theorem leafQueue_nodup (h : HistMem) : ((leafQueue h).map (·.idx)).Nodup := by
  rw [leafQueue_map_idx]
  have hs : ((presentSymbols h).map (·.2)).Nodup := by
    have : ((presentSymbols h).map (·.2)).Sublist (h.toList.zipIdx.map (·.2)) :=
      List.filter_sublist.map _
    refine this.nodup ?_
    rw [List.zipIdx_map_snd]
    exact List.nodup_range'
  refine List.Nodup.map_on ?_ (List.Nodup.of_map _ hs)
  rintro ⟨v, i⟩ hp ⟨w, j⟩ hq hij
  obtain ⟨hi, hv, _⟩ := mem_presentSymbols.1 hp
  obtain ⟨hj, hw, _⟩ := mem_presentSymbols.1 hq
  have e : i = j := by
    have := congrArg BitVec.toNat hij
    simp only [BitVec.toNat_ofNat] at this
    omega
  rw [hv, hw, e]

/-- The number of symbols counted in a histogram, repetitions included (R138 (d)). -/
def totalCount (h : HistMem) : Nat := (h.toList.map BitVec.toNat).sum

/-- The counts of all symbols together fit a weight (R140). -/
theorem totalCount_lt (h : HistMem) : totalCount h < 2 ^ 40 := by
  have hb : ∀ n ∈ h.toList.map BitVec.toNat, n ≤ 2 ^ 32 - 1 := by
    simp only [List.mem_map]
    rintro _ ⟨v, _, rfl⟩
    have := v.isLt
    omega
  have := List.sum_le_card_nsmul _ _ hb
  simp at this
  unfold totalCount
  omega

/-- Entries of count 0 do not add to a sum. -/
theorem sum_filter_nonzero (l : List (Word × Nat)) :
    ((l.filter fun p => p.1 != 0).map (·.1.toNat)).sum = (l.map (·.1.toNat)).sum := by
  induction l with
  | nil => rfl
  | cons p l ih =>
    rw [List.filter_cons]
    by_cases hp : p.1 = 0
    · simpa [hp] using ih
    · rw [if_pos (by simpa using hp)]
      simpa using ih

theorem leafQueue_total (h : HistMem) : ((leafQueue h).map (·.weight.toNat)).sum = totalCount h := by
  have hw : (leafQueue h).map (·.weight.toNat) = (presentSymbols h).map (·.1.toNat) := by
    have := congrArg (List.map BitVec.toNat) (leafQueue_map_weight h)
    simp only [List.map_map] at this
    refine this.trans (List.map_congr_left fun p _ => ?_)
    have := p.1.isLt
    simp
    omega
  rw [hw, presentSymbols, sum_filter_nonzero, totalCount]
  conv_rhs => rw [← List.zipIdx_map_fst 0 h.toList, List.map_map]
  rfl

/-! ### The forest BUILD merges (41_tree_builder R130, R133, R138) -/

/-- Record `n` is an internal node over two records of lower index (R138 (a), (c), (d)). -/
structure IsMerge (nodes : NodeMem) (n : NodeIdx) : Prop where
  internal : isInternal nodes n
  symbol : (nodeAt nodes n).symbol = 0
  left_valid : (nodeAt nodes (nodeAt nodes n).left).valid = true
  left_lt : (nodeAt nodes n).left.toNat < n.toNat
  right_valid : (nodeAt nodes (nodeAt nodes n).right).valid = true
  right_lt : (nodeAt nodes n).right.toNat < n.toNat
  right_ne_left : (nodeAt nodes n).right ≠ (nodeAt nodes n).left
  weight : (nodeAt nodes n).weight.toNat = (nodeAt nodes (nodeAt nodes n).left).weight.toNat
    + (nodeAt nodes (nodeAt nodes n).right).weight.toNat

/-- BUILD's invariant after `k` merges over the leaves of `h`, `q` in the container: the leaves and `k`
internal records are valid, and the entries of `q` are the records without a parent. -/
structure Forest (h : HistMem) (nodes : NodeMem) (k : Nat) (q : List QEntry) : Prop where
  size : k + q.length ≤ 256
  low : ∀ n, n.toNat < 256 → nodeAt nodes n = leafAt h n
  merged : ∀ n, 256 ≤ n.toNat → n.toNat < 256 + k → IsMerge nodes n
  high : ∀ n, 256 + k ≤ n.toNat → nodeAt nodes n = NodeRecord.invalid
  top_iff : ∀ c, c ∈ q.map (·.idx) ↔ (nodeAt nodes c).valid = true ∧ ∀ p, ¬ isChild nodes p c
  top_nodup : (q.map (·.idx)).Nodup
  top_weight : ∀ e ∈ q, e.weight = (nodeAt nodes e.idx).weight
  one_parent : ∀ p p' c, isChild nodes p c → isChild nodes p' c → p = p'
  total : (q.map (·.weight.toNat)).sum = totalCount h

theorem internalIdx_toNat {k : Nat} (hk : k ≤ 255) : (internalIdx k).toNat = 256 + k := by
  simp [internalIdx]
  omega

theorem leafAt_counted {h : HistMem} {n : NodeIdx} (hv : histAt h (n.setWidth 8) ≠ 0) :
    leafAt h n = leafRecord (n.setWidth 8) (histAt h (n.setWidth 8)) := if_neg hv

theorem leafAt_uncounted {h : HistMem} {n : NodeIdx} (hv : histAt h (n.setWidth 8) = 0) :
    leafAt h n = NodeRecord.invalid := if_pos hv

theorem leafAt_valid_iff {h : HistMem} {n : NodeIdx} :
    (leafAt h n).valid = true ↔ histAt h (n.setWidth 8) ≠ 0 := by
  by_cases hv : histAt h (n.setWidth 8) = 0
  · simp [leafAt_uncounted hv, hv, NodeRecord.invalid]
  · simpa [leafAt_counted hv, leafRecord] using hv

theorem leafAt_leaf (h : HistMem) (n : NodeIdx) : (leafAt h n).leaf = (leafAt h n).valid := by
  unfold leafAt
  split <;> rfl

section Forest
variable {h : HistMem} {nodes : NodeMem} {k : Nat} {q : List QEntry}

/-- The records 256 to 255 + k are the internal ones (R136). -/
theorem Forest.isInternal_iff (hF : Forest h nodes k q) {n : NodeIdx} :
    isInternal nodes n ↔ 256 ≤ n.toNat ∧ n.toNat < 256 + k := by
  constructor
  · intro hi
    by_contra hn
    rcases Nat.lt_or_ge n.toNat 256 with hl | hl
    · simp [isInternal, hF.low n hl, leafAt_leaf] at hi
    · have := hi.1
      simp [hF.high n (by omega), NodeRecord.invalid] at this
  · intro ⟨h₁, h₂⟩
    exact (hF.merged n h₁ h₂).internal

theorem Forest.isMerge (hF : Forest h nodes k q) {n : NodeIdx} (hi : isInternal nodes n) :
    IsMerge nodes n :=
  hF.merged n (hF.isInternal_iff.1 hi).1 (hF.isInternal_iff.1 hi).2

/-- The leaves are the records of the counted symbols (R131, R136). -/
theorem Forest.isLeaf_iff (hF : Forest h nodes k q) {n : NodeIdx} :
    isLeaf nodes n ↔ n.toNat < 256 ∧ histAt h (n.setWidth 8) ≠ 0 := by
  rcases Nat.lt_or_ge n.toNat 256 with hl | hl
  · simp only [isLeaf, hF.low n hl, hl, true_and, leafAt_leaf, and_self, leafAt_valid_iff]
  · refine iff_of_false (fun hL => ?_) (by omega)
    rcases Nat.lt_or_ge n.toNat (256 + k) with hk | hk
    · have := (hF.merged n hl hk).internal.2
      simp [hL.2] at this
    · simp [isLeaf, hF.high n hk, NodeRecord.invalid] at hL

theorem Forest.leaf_record (hF : Forest h nodes k q) {n : NodeIdx} (hL : isLeaf nodes n) :
    nodeAt nodes n = leafRecord (n.setWidth 8) (histAt h (n.setWidth 8)) := by
  obtain ⟨hn, hv⟩ := hF.isLeaf_iff.1 hL
  rw [hF.low n hn, leafAt_counted hv]

theorem Forest.invalid (hF : Forest h nodes k q) {n : NodeIdx} (hv : (nodeAt nodes n).valid = false) :
    nodeAt nodes n = NodeRecord.invalid := by
  rcases Nat.lt_or_ge n.toNat 256 with hl | hl
  · rw [hF.low n hl] at hv ⊢
    exact leafAt_uncounted (by simpa [leafAt_valid_iff] using mt leafAt_valid_iff.2 (by simp [hv]))
  · rcases Nat.lt_or_ge n.toNat (256 + k) with hk | hk
    · simp [(hF.merged n hl hk).internal.1] at hv
    · exact hF.high n hk

theorem Forest.valid_lt (hF : Forest h nodes k q) {n : NodeIdx} (hv : (nodeAt nodes n).valid = true) :
    n.toNat < 256 + k := by
  by_contra hn
  simp [hF.high n (by omega), NodeRecord.invalid] at hv

theorem Forest.child_valid (hF : Forest h nodes k q) {p c : NodeIdx} (hc : isChild nodes p c) :
    (nodeAt nodes c).valid = true ∧ c.toNat < p.toNat := by
  obtain ⟨hi, rfl | rfl⟩ := hc
  · exact ⟨(hF.isMerge hi).left_valid, (hF.isMerge hi).left_lt⟩
  · exact ⟨(hF.isMerge hi).right_valid, (hF.isMerge hi).right_lt⟩

/-- The invariant does not depend on the order of the container. -/
theorem Forest.perm {q' : List QEntry} (hF : Forest h nodes k q) (hp : q'.Perm q) :
    Forest h nodes k q' :=
  { hF with
    size := hp.length_eq ▸ hF.size
    top_iff := fun c => ((hp.map _).mem_iff).trans (hF.top_iff c)
    top_nodup := ((hp.map _).nodup_iff).2 hF.top_nodup
    top_weight := fun e he => hF.top_weight e (hp.mem_iff.1 he)
    total := ((hp.map _).sum_eq).trans hF.total }

end Forest

/-- After the leaves are created they are all without a parent. -/
theorem forest_leafNodes (h : HistMem) : Forest h (leafNodes h) 0 (leafQueue h) := by
  have hleaf : ∀ n, (nodeAt (leafNodes h) n).valid = true ↔
      n.toNat < 256 ∧ histAt h (n.setWidth 8) ≠ 0 := by
    intro n
    rw [nodeAt_leafNodes]
    by_cases hn : n.toNat < 256
    · simp only [hn, if_true, true_and, leafAt_valid_iff]
    · simp [hn, NodeRecord.invalid]
  have hchild : ∀ p c, ¬ isChild (leafNodes h) p c := by
    rintro p c ⟨hi, _⟩
    have hp := ((hleaf p).1 hi.1).1
    simp [isInternal, nodeAt_leafNodes, hp, leafAt_leaf] at hi
  exact {
    size := by simpa [leafQueue_length] using distinctSymbols_le h
    low := fun n hn => by rw [nodeAt_leafNodes, if_pos hn]
    merged := fun n h₁ h₂ => by omega
    high := fun n hn => by rw [nodeAt_leafNodes, if_neg (by omega)]
    top_iff := fun c => by
      rw [leafQueue_map_idx, mem_presentSymbols_idx, hleaf]
      exact (and_iff_left fun p => hchild p c).symm
    top_nodup := leafQueue_nodup h
    top_weight := fun e he => by
      simp only [leafQueue, List.mem_map, Prod.exists] at he
      obtain ⟨v, i, j, hm, rfl⟩ := he
      have hp : (v, i) ∈ presentSymbols h := List.fst_mem_of_mem_zipIdx hm
      obtain ⟨hi, rfl, h0⟩ := mem_presentSymbols.1 hp
      have hn : (BitVec.ofNat 9 i).toNat < 256 := by simp; omega
      simp only [nodeAt_leafNodes, if_pos hn, leafAt, setWidth_ofNat_idx, if_neg h0, leafRecord]
    one_parent := fun p _ c hc => absurd hc (hchild p c)
    total := leafQueue_total h }

theorem IsMerge.congr {nodes nodes' : NodeMem} {n : NodeIdx} (hm : IsMerge nodes n)
    (he : ∀ c : NodeIdx, c.toNat ≤ n.toNat → nodeAt nodes' c = nodeAt nodes c) : IsMerge nodes' n := by
  have hn := he n le_rfl
  have hl := he _ hm.left_lt.le
  have hr := he _ hm.right_lt.le
  constructor <;> simp only [isInternal, hn, hl, hr]
  exacts [hm.internal, hm.symbol, hm.left_valid, hm.left_lt, hm.right_valid, hm.right_lt,
    hm.right_ne_left, hm.weight]

section Merge
variable {h : HistMem} {nodes : NodeMem} {k : Nat} {a b : QEntry} {q : List QEntry}

/-- The records after one more merge. -/
def mergeNodes (nodes : NodeMem) (k : Nat) (a b : QEntry) : NodeMem :=
  nodeSet nodes (internalIdx k) (mergeRecord a b)

theorem nodeAt_mergeNodes_new : nodeAt (mergeNodes nodes k a b) (internalIdx k) = mergeRecord a b :=
  nodeAt_nodeSet_same _ _ _

theorem nodeAt_mergeNodes_old {n : NodeIdx} (hn : n ≠ internalIdx k) :
    nodeAt (mergeNodes nodes k a b) n = nodeAt nodes n :=
  nodeAt_nodeSet_other _ _ hn

/-- A merge adds two children to those there were. -/
theorem isChild_mergeNodes (hnew : nodeAt nodes (internalIdx k) = NodeRecord.invalid) {p c : NodeIdx} :
    isChild (mergeNodes nodes k a b) p c ↔
      (p = internalIdx k ∧ (c = a.idx ∨ c = b.idx)) ∨ isChild nodes p c := by
  by_cases hp : p = internalIdx k
  · subst hp
    simp [isChild, isInternal, nodeAt_mergeNodes_new, hnew, NodeRecord.invalid, mergeRecord, eq_comm]
  · simp [isChild, isInternal, nodeAt_mergeNodes_old hp, hp]

/-- The records a merge leaves without a parent: those that had none, but for its two children. -/
theorem orphan_mergeNodes (hnew : nodeAt nodes (internalIdx k) = NodeRecord.invalid) {c : NodeIdx} :
    (∀ p, ¬ isChild (mergeNodes nodes k a b) p c) ↔
      (c ≠ a.idx ∧ c ≠ b.idx) ∧ ∀ p, ¬ isChild nodes p c := by
  simp only [isChild_mergeNodes hnew, not_or, forall_and]
  simp

theorem Forest.top_valid (hF : Forest h nodes k q) {e : QEntry} (he : e ∈ q) :
    (nodeAt nodes e.idx).valid = true ∧ ∀ p, ¬ isChild nodes p e.idx :=
  (hF.top_iff e.idx).1 (List.mem_map_of_mem he)

variable (hF : Forest h nodes k (a :: b :: q))
include hF

theorem Forest.next_toNat : (internalIdx k).toNat = 256 + k := by
  have := hF.size
  simp only [List.length_cons] at this
  exact internalIdx_toNat (by omega)

theorem Forest.next_invalid : nodeAt nodes (internalIdx k) = NodeRecord.invalid :=
  hF.high _ hF.next_toNat.ge

/-- No other record is the next merge's. -/
theorem Forest.ne_next {n : NodeIdx} (hn : n.toNat ≠ 256 + k) : n ≠ internalIdx k :=
  fun e => hn (e ▸ hF.next_toNat)

theorem Forest.top_ne_next {e : QEntry} (he : e ∈ a :: b :: q) : e.idx ≠ internalIdx k :=
  hF.ne_next (hF.valid_lt (hF.top_valid he).1).ne

/-- The weights of the two least entries add up without overflow (R140). -/
theorem Forest.weight_add : (a.weight + b.weight).toNat = a.weight.toNat + b.weight.toNat := by
  have hsum := hF.total
  simp only [List.map_cons, List.sum_cons] at hsum
  have hlt := totalCount_lt h
  rw [BitVec.toNat_add, Nat.mod_eq_of_lt (by omega)]

theorem Forest.top_pair_ne : a.idx ≠ b.idx := by
  have hnd := hF.top_nodup
  simp only [List.map_cons, List.nodup_cons, List.mem_cons, not_or] at hnd
  exact hnd.1.1

theorem Forest.isMerge_next : IsMerge (mergeNodes nodes k a b) (internalIdx k) := by
  have ha : a ∈ a :: b :: q := by simp
  have hb : b ∈ a :: b :: q := by simp
  constructor <;> simp only [isInternal, nodeAt_mergeNodes_new, mergeRecord, hF.next_toNat,
    nodeAt_mergeNodes_old (hF.top_ne_next ha), nodeAt_mergeNodes_old (hF.top_ne_next hb)]
  exacts [⟨trivial, trivial⟩, (hF.top_valid ha).1, hF.valid_lt (hF.top_valid ha).1, (hF.top_valid hb).1,
    hF.valid_lt (hF.top_valid hb).1, hF.top_pair_ne.symm, by
      rw [hF.weight_add, hF.top_weight a ha, hF.top_weight b hb]]

/-- The tops after a merge: its own record, and those that were tops but not merged. -/
theorem Forest.top_iff_merge (c : NodeIdx) : c = internalIdx k ∨ c ∈ q.map (·.idx) ↔
    (nodeAt (mergeNodes nodes k a b) c).valid = true ∧ ∀ p, ¬ isChild (mergeNodes nodes k a b) p c := by
  rw [orphan_mergeNodes hF.next_invalid]
  by_cases hc : c = internalIdx k
  · subst hc
    refine iff_of_true (.inl rfl) ⟨hF.isMerge_next.internal.1, ⟨?_, ?_⟩, fun p hp => ?_⟩
    · exact (hF.top_ne_next (by simp)).symm
    · exact (hF.top_ne_next (by simp)).symm
    · have := (hF.child_valid hp).1
      simp [hF.next_invalid, NodeRecord.invalid] at this
  · have htop := hF.top_iff c
    have hnd := hF.top_nodup
    simp only [List.map_cons, List.mem_cons, List.nodup_cons, not_or] at htop hnd
    obtain ⟨⟨_, haq⟩, hbq, _⟩ := hnd
    rw [nodeAt_mergeNodes_old hc]
    constructor
    · intro hm
      have hq := hm.resolve_left hc
      obtain ⟨hv, hnc⟩ := htop.1 (.inr (.inr hq))
      exact ⟨hv, ⟨fun e => haq (e ▸ hq), fun e => hbq (e ▸ hq)⟩, hnc⟩
    · rintro ⟨hv, ⟨hca, hcb⟩, hnc⟩
      exact .inr (((htop.2 ⟨hv, hnc⟩).resolve_left hca).resolve_left hcb)

theorem Forest.one_parent_merge (p p' c : NodeIdx) (hp : isChild (mergeNodes nodes k a b) p c)
    (hp' : isChild (mergeNodes nodes k a b) p' c) : p = p' := by
  have hold : ∀ {p}, isChild nodes p c → ¬ (c = a.idx ∨ c = b.idx) := by
    rintro p hp (rfl | rfl)
    · exact (hF.top_valid (by simp)).2 p hp
    · exact (hF.top_valid (by simp)).2 p hp
  rcases (isChild_mergeNodes hF.next_invalid).1 hp with ⟨rfl, hc⟩ | hp <;>
    rcases (isChild_mergeNodes hF.next_invalid).1 hp' with ⟨rfl, hc'⟩ | hp'
  · rfl
  · exact absurd hc (hold hp')
  · exact absurd hc' (hold hp)
  · exact hF.one_parent p p' c hp hp'

/-- One merge keeps the invariant (R130, R133). -/
theorem Forest.merge (seq : Nat) : Forest h (mergeNodes nodes k a b) (k + 1)
    ({ weight := a.weight + b.weight, seq := seq, idx := internalIdx k } :: q) where
  size := by
    have := hF.size
    simp only [List.length_cons] at this ⊢
    omega
  low n hn := by rw [nodeAt_mergeNodes_old (hF.ne_next (by omega)), hF.low n hn]
  merged n h₁ h₂ := by
    rcases Nat.lt_or_ge n.toNat (256 + k) with hk | hk
    · exact (hF.merged n h₁ hk).congr fun c hc => nodeAt_mergeNodes_old (hF.ne_next (by omega))
    · have hn : n = internalIdx k := BitVec.eq_of_toNat_eq (by rw [hF.next_toNat]; omega)
      exact hn ▸ hF.isMerge_next
  high n hn := by rw [nodeAt_mergeNodes_old (hF.ne_next (by omega)), hF.high n (by omega)]
  top_iff c := by
    rw [List.map_cons, List.mem_cons]
    exact hF.top_iff_merge c
  top_nodup := by
    have hnd := hF.top_nodup
    simp only [List.map_cons, List.nodup_cons] at hnd ⊢
    refine ⟨fun hm => ?_, hnd.2.2⟩
    obtain ⟨e, he, heq⟩ := List.mem_map.1 hm
    exact hF.top_ne_next (by simp [he]) heq
  top_weight e he := by
    rcases List.mem_cons.1 he with rfl | he
    · simp only [nodeAt_mergeNodes_new, mergeRecord]
    · rw [nodeAt_mergeNodes_old (hF.top_ne_next (by simp [he])), hF.top_weight e (by simp [he])]
  one_parent := hF.one_parent_merge
  total := by
    have := hF.total
    simp only [List.map_cons, List.sum_cons, hF.weight_add] at this ⊢
    omega

end Merge

/-- The merges of BUILD leave a single tree (R130). -/
theorem forest_mergeLoop {h : HistMem} {nodes : NodeMem} {count k : Nat} (seq : Nat) {q : List QEntry}
    (hF : Forest h nodes k q) (hq : q.length = count + 1) :
    ∃ e, Forest h (mergeLoop count k seq q nodes) (k + count) [e] := by
  induction count generalizing k seq q nodes with
  | zero =>
    obtain ⟨e, rfl⟩ := List.length_eq_one_iff.1 hq
    exact ⟨e, hF⟩
  | succ count ih =>
    obtain ⟨⟨a, q₁⟩, ha⟩ := Option.ne_none_iff_exists'.1 (mt extractMin_eq_none.1
      (show q ≠ [] by rintro rfl; simp at hq))
    have hq₁ := extractMin_length ha
    obtain ⟨⟨b, q₂⟩, hb⟩ := Option.ne_none_iff_exists'.1 (mt extractMin_eq_none.1
      (show q₁ ≠ [] by rintro rfl; simp at hq₁; omega))
    have hq₂ := extractMin_length hb
    have hab : Forest h nodes k (a :: b :: q₂) :=
      hF.perm (((extractMin_perm hb).cons a).trans (extractMin_perm ha))
    obtain ⟨e, he⟩ := ih (seq + 1) (hab.merge seq) (by simp only [List.length_cons]; omega)
    refine ⟨e, ?_⟩
    rw [show k + (count + 1) = k + 1 + count by omega]
    simp only [mergeLoop, ha, hb]
    exact he

/-- A forest with one top is a tree under its last internal record. -/
theorem Forest.root_idx {h : HistMem} {nodes : NodeMem} {k : Nat} {e : QEntry}
    (hF : Forest h nodes (k + 1) [e]) : e.idx = internalIdx k := by
  have hsize := hF.size
  simp only [List.length_singleton] at hsize
  have hidx : (internalIdx k).toNat = 256 + k := internalIdx_toNat (by omega)
  have hv := (hF.merged (internalIdx k) (by omega) (by omega)).internal.1
  have htop := (hF.top_iff (internalIdx k)).2 ⟨hv, fun p hp => by
    have := (hF.child_valid hp).2
    have := (hF.isInternal_iff.1 hp.1).2
    omega⟩
  simpa [eq_comm] using htop

/-- That tree has the shape of R138. -/
theorem Forest.treeShape {h : HistMem} {nodes : NodeMem} {k : Nat} {e : QEntry}
    (hF : Forest h nodes (k + 1) [e]) : TreeShape nodes (internalIdx k) := by
  have hsize := hF.size
  simp only [List.length_singleton] at hsize
  have hidx : (internalIdx k).toNat = 256 + k := internalIdx_toNat (by omega)
  have htop : ∀ c, c = internalIdx k ↔ (nodeAt nodes c).valid = true ∧ ∀ p, ¬ isChild nodes p c :=
    fun c => by simpa [hF.root_idx] using hF.top_iff c
  exact {
    root_internal := hF.isInternal_iff.2 (by omega)
    leaf_form := fun n hn => by
      have hlt := (hF.isLeaf_iff.1 hn).1
      simp only [hF.leaf_record hn, leafRecord, and_self, and_true]
      simp
      omega
    internal_form := fun n hn => by
      obtain ⟨h₁, h₂⟩ := hF.isInternal_iff.1 hn
      refine ⟨h₁, fun hnil => ?_, (hF.isMerge hn).symbol⟩
      subst hnil
      simp [Config.nilIdx] at h₂
      omega
    invalid_form := fun n hn => hF.invalid hn
    left_child := fun n hn => ⟨(hF.isMerge hn).left_valid, (hF.isMerge hn).left_lt⟩
    right_child := fun n hn _ =>
      ⟨(hF.isMerge hn).right_valid, (hF.isMerge hn).right_lt, (hF.isMerge hn).right_ne_left⟩
    one_child := fun n hn hr => absurd hr (ne_nilIdx_of_lt (hF.isMerge hn).right_lt)
    has_parent := fun c hv hc => by
      by_contra hp
      exact hc ((htop c).2 ⟨hv, not_exists.1 hp⟩)
    one_parent := fun p p' c hp hp' _ => hF.one_parent p p' c hp hp'
    root_top := ((htop _).1 rfl).2
    weight_sum := fun n hn => (hF.isMerge hn).weight }


section Single
variable {h : HistMem} {nodes : NodeMem} {e : QEntry}

/-- The records of the single-symbol tree (R134). -/
def singleNodes (nodes : NodeMem) (e : QEntry) : NodeMem := nodeSet nodes (internalIdx 0) (singleRoot e)

theorem nodeAt_singleNodes_root : nodeAt (singleNodes nodes e) (internalIdx 0) = singleRoot e :=
  nodeAt_nodeSet_same _ _ _

theorem nodeAt_singleNodes_old {n : NodeIdx} (hn : n ≠ internalIdx 0) :
    nodeAt (singleNodes nodes e) n = nodeAt nodes n :=
  nodeAt_nodeSet_other _ _ hn

variable (hF : Forest h nodes 0 [e])
include hF

theorem Forest.single_lt : e.idx.toNat < 256 := by
  simpa using hF.valid_lt (hF.top_valid (e := e) (by simp)).1

theorem Forest.single_ne_root : e.idx ≠ internalIdx 0 := by
  have := hF.single_lt
  intro he
  rw [he, internalIdx_toNat (by omega)] at this
  omega

/-- Before the root is written the one leaf is the only valid record. -/
theorem Forest.single_valid_iff {c : NodeIdx} : (nodeAt nodes c).valid = true ↔ c = e.idx := by
  have htop := hF.top_iff c
  simp only [List.map_cons, List.map_nil, List.mem_singleton] at htop
  rw [htop]
  refine (and_iff_left fun p hp => ?_).symm
  have := hF.isInternal_iff.1 hp.1
  omega

theorem Forest.single_isLeaf : isLeaf nodes e.idx := by
  have hv := hF.single_valid_iff.2 rfl
  exact ⟨hv, by rwa [hF.low _ hF.single_lt, leafAt_leaf, ← hF.low _ hF.single_lt]⟩

theorem Forest.single_isInternal_iff {n : NodeIdx} :
    isInternal (singleNodes nodes e) n ↔ n = internalIdx 0 := by
  by_cases hn : n = internalIdx 0
  · simp [hn, isInternal, nodeAt_singleNodes_root, singleRoot]
  · refine iff_of_false (fun hi => ?_) hn
    rw [isInternal, nodeAt_singleNodes_old hn] at hi
    have := hF.isInternal_iff.1 hi
    omega

theorem Forest.single_isLeaf_iff {n : NodeIdx} : isLeaf (singleNodes nodes e) n ↔ n = e.idx := by
  by_cases hn : n = internalIdx 0
  · simp [hn, isLeaf, nodeAt_singleNodes_root, singleRoot, hF.single_ne_root.symm]
  · simp only [isLeaf, nodeAt_singleNodes_old hn, hF.single_valid_iff]
    exact and_iff_left_of_imp fun he => he ▸ hF.single_isLeaf.2

theorem Forest.single_isChild_iff {p c : NodeIdx} :
    isChild (singleNodes nodes e) p c ↔ p = internalIdx 0 ∧ (c = e.idx ∨ c = Config.nilIdx) := by
  simp only [isChild, hF.single_isInternal_iff]
  refine and_congr_right fun hp => ?_
  simp [hp, nodeAt_singleNodes_root, singleRoot, eq_comm]

/-- The synthetic root over a single leaf gives a tree of the shape of R138 (R134). -/
theorem Forest.treeShape_single : TreeShape (singleNodes nodes e) (internalIdx 0) where
  root_internal := hF.single_isInternal_iff.2 rfl
  leaf_form n hn := by
    have := hF.single_lt
    rw [hF.single_isLeaf_iff.1 hn, nodeAt_singleNodes_old hF.single_ne_root,
      hF.leaf_record hF.single_isLeaf]
    simp only [leafRecord, and_self, and_true]
    simp
    omega
  internal_form n hn := by
    rw [hF.single_isInternal_iff.1 hn, nodeAt_singleNodes_root]
    exact ⟨by decide, by decide, rfl⟩
  invalid_form n hn := by
    have hne : n ≠ internalIdx 0 := fun he => by
      simp [he, nodeAt_singleNodes_root, singleRoot] at hn
    rw [nodeAt_singleNodes_old hne] at hn ⊢
    exact hF.invalid hn
  left_child n hn := by
    rw [hF.single_isInternal_iff.1 hn, nodeAt_singleNodes_root]
    exact ⟨(hF.single_isLeaf_iff.2 rfl).1, hF.single_lt⟩
  right_child n hn hr := by
    rw [hF.single_isInternal_iff.1 hn, nodeAt_singleNodes_root] at hr
    exact absurd rfl hr
  one_child n hn _ := by
    rw [hF.single_isInternal_iff.1 hn, nodeAt_singleNodes_root]
    exact ⟨rfl, hF.single_isLeaf_iff.2 rfl⟩
  has_parent c hv hc := by
    rw [nodeAt_singleNodes_old hc, hF.single_valid_iff] at hv
    exact ⟨internalIdx 0, hF.single_isChild_iff.2 ⟨rfl, .inl hv⟩⟩
  one_parent p p' c hp hp' _ :=
    (hF.single_isChild_iff.1 hp).1.trans (hF.single_isChild_iff.1 hp').1.symm
  root_top p hp := by
    rcases (hF.single_isChild_iff.1 hp).2 with he | he
    · exact hF.single_ne_root he.symm
    · exact absurd he (by decide)
  weight_sum n hn := by
    have hnil : nodeAt (singleNodes nodes e) Config.nilIdx = NodeRecord.invalid := by
      rw [nodeAt_singleNodes_old (by decide), hF.high _ (by decide)]
    have hleaf : nodeAt (singleNodes nodes e) e.idx = nodeAt nodes e.idx :=
      nodeAt_singleNodes_old hF.single_ne_root
    rw [hF.single_isInternal_iff.1 hn, nodeAt_singleNodes_root]
    simp only [singleRoot, hnil, hleaf, hF.top_weight e (List.mem_singleton_self e)]
    rfl

end Single

/-- Over several leaves BUILD leaves a forest with one top (R130). -/
theorem forest_buildNodes {h : HistMem} {k : Nat} (hk : distinctSymbols h = k + 2) :
    ∃ e, Forest h (buildNodes h) (k + 1) [e] := by
  rw [← leafQueue_length] at hk
  obtain ⟨e, he⟩ := forest_mergeLoop (leafQueue h).length (forest_leafNodes h) hk
  refine ⟨e, ?_⟩
  unfold buildNodes
  split
  · next e' he' => simp [he'] at hk
  · rw [hk, Nat.zero_add] at he
    rw [hk]
    exact he

/-- The tree BUILD makes of a histogram that is not all zero has the shape of R138. -/
theorem treeShape_buildNodes {h : HistMem} (h0 : distinctSymbols h ≠ 0) :
    TreeShape (buildNodes h) (buildRoot (distinctSymbols h)) := by
  by_cases h1 : distinctSymbols h = 1
  · obtain ⟨e, he⟩ := List.length_eq_one_iff.1 ((leafQueue_length h).trans h1)
    have hF := forest_leafNodes h
    rw [he] at hF
    have hnodes : buildNodes h = singleNodes (leafNodes h) e := by simp [buildNodes, he, singleNodes]
    rw [hnodes, h1]
    exact hF.treeShape_single
  · obtain ⟨k, hk⟩ : ∃ k, distinctSymbols h = k + 2 := ⟨distinctSymbols h - 2, by omega⟩
    obtain ⟨e, he⟩ := forest_buildNodes hk
    rw [hk]
    exact he.treeShape

/-! ### The records of a tree (41_tree_builder R138) -/

/-- A valid record is one or the other (R38). -/
theorem isLeaf_or_isInternal {nodes : NodeMem} {n : NodeIdx} (hv : (nodeAt nodes n).valid = true) :
    isLeaf nodes n ∨ isInternal nodes n := by
  cases hl : (nodeAt nodes n).leaf with
  | true => exact .inl ⟨hv, hl⟩
  | false => exact .inr ⟨hv, hl⟩

section TreeShape
variable {nodes : NodeMem} {root : NodeIdx} (hT : TreeShape nodes root)
include hT

/-- Only a valid record is a leaf. -/
theorem TreeShape.isLeaf_of_leaf {n : NodeIdx} (hl : (nodeAt nodes n).leaf = true) : isLeaf nodes n := by
  refine ⟨?_, hl⟩
  by_contra hv
  simp [hT.invalid_form n (by simpa using hv), NodeRecord.invalid] at hl

/-- Record 511 is not part of a tree (R38). -/
theorem TreeShape.nil_invalid : nodeAt nodes Config.nilIdx = NodeRecord.invalid := by
  apply hT.invalid_form
  by_contra hv
  rcases isLeaf_or_isInternal (by simpa using hv) with hn | hn
  · have := (hT.leaf_form _ hn).1
    have := (nodeAt nodes Config.nilIdx).symbol.isLt
    simp [Config.nilIdx] at *
    omega
  · exact (hT.internal_form _ hn).2.1 rfl

/-- The symbol of a leaf names its record (R38). -/
theorem TreeShape.leaf_idx {n : NodeIdx} (hn : isLeaf nodes n) :
    (nodeAt nodes n).symbol.setWidth 9 = n := by
  apply BitVec.eq_of_toNat_eq
  have := (hT.leaf_form n hn).1
  have := (nodeAt nodes n).symbol.isLt
  simp
  omega

/-- No bit leads on from a leaf. -/
theorem TreeShape.follow_leaf {n m : NodeIdx} {p : List Bool} (hn : isLeaf nodes n)
    (hp : follow nodes n p = some m) : p = [] ∧ m = n := by
  cases p with
  | nil => exact ⟨rfl, by simpa [follow, eq_comm] using hp⟩
  | cons b bs =>
    obtain ⟨_, hl, hr⟩ := hT.leaf_form n hn
    cases b <;> simp [follow, hl, hr] at hp

/-- Every valid record is on a path from ROOT (R138 (b)): upwards from it, its parents have higher indices. -/
theorem TreeShape.reachable (c : NodeIdx) (hv : (nodeAt nodes c).valid = true) :
    ∃ p, follow nodes root p = some c := by
  by_cases hc : c = root
  · exact ⟨[], by simp [follow, hc]⟩
  · obtain ⟨n, hn, hchild⟩ := hT.has_parent c hv hc
    obtain ⟨hlv, hllt⟩ := hT.left_child n hn
    have hcnil : c ≠ Config.nilIdx := fun he => by
      simp [he, hT.nil_invalid, NodeRecord.invalid] at hv
    have hlt : c.toNat < n.toNat := by
      rcases hchild with rfl | rfl
      · exact hllt
      · exact (hT.right_child n hn hcnil).2.1
    obtain ⟨p, hp⟩ := TreeShape.reachable n hn.1
    rcases hchild with he | he
    · exact ⟨p ++ [false], by simp [follow_append, hp, follow, he, hcnil]⟩
    · exact ⟨p ++ [true], by simp [follow_append, hp, follow, he, hcnil]⟩
termination_by 512 - c.toNat
decreasing_by have := n.isLt; omega

/-- Below every valid record there is a leaf: downwards from it, its left children have lower indices. -/
theorem TreeShape.exists_leaf (n : NodeIdx) (hv : (nodeAt nodes n).valid = true) : ∃ m, isLeaf nodes m := by
  rcases isLeaf_or_isInternal hv with hn | hn
  · exact ⟨n, hn⟩
  · obtain ⟨hlv, hlt⟩ := hT.left_child n hn
    exact TreeShape.exists_leaf (nodeAt nodes n).left hlv
termination_by n.toNat

end TreeShape

/-! ### The walk of GEN (42_code_table R150) -/

/-- One bit of a path leads to the child it names (R190). -/
theorem follow_cons (nodes : NodeMem) (n : NodeIdx) (b : Bool) (bs : List Bool) :
    follow nodes n (b :: bs) = if childOf (nodeAt nodes n) b = Config.nilIdx then none
      else follow nodes (childOf (nodeAt nodes n) b) bs := rfl

/-- The codes of the walk at an internal record are those of the walks at its present children (R150). -/
theorem codeWalk_internal {nodes : NodeMem} {depth : Nat} {n : NodeIdx} {path : List Bool}
    {codes : List (Byte × List Bool)} (hl : (nodeAt nodes n).leaf = false)
    (hw : codeWalk nodes (depth + 1) n path = some codes) :
    (∀ c ∈ codes, ∃ b under, childOf (nodeAt nodes n) b ≠ Config.nilIdx
        ∧ codeWalk nodes depth (childOf (nodeAt nodes n) b) (path ++ [b]) = some under ∧ c ∈ under)
      ∧ ∀ b, childOf (nodeAt nodes n) b ≠ Config.nilIdx → ∃ under,
        codeWalk nodes depth (childOf (nodeAt nodes n) b) (path ++ [b]) = some under ∧ under ⊆ codes := by
  simp only [codeWalk, hl, Bool.false_eq_true, if_false] at hw
  split at hw
  · next left right hleft hright =>
    obtain rfl := Option.some.inj hw
    refine ⟨fun c hc => ?_, fun b hb => ?_⟩
    · rcases List.mem_append.1 hc with hc | hc
      · by_cases hnil : (nodeAt nodes n).left = Config.nilIdx
        · simp [← Option.some.inj ((if_pos hnil).symm.trans hleft)] at hc
        · exact ⟨false, left, hnil, (if_neg hnil).symm.trans hleft, hc⟩
      · by_cases hnil : (nodeAt nodes n).right = Config.nilIdx
        · simp [← Option.some.inj ((if_pos hnil).symm.trans hright)] at hc
        · exact ⟨true, right, hnil, (if_neg hnil).symm.trans hright, hc⟩
    · cases b with
      | false => exact ⟨left, (if_neg hb).symm.trans hleft, List.subset_append_left _ _⟩
      | true => exact ⟨right, (if_neg hb).symm.trans hright, List.subset_append_right _ _⟩
  · simp at hw

/-- The walk at a leaf has one code, the path so far (R150). -/
theorem codeWalk_leaf_mem {nodes : NodeMem} {depth : Nat} {n : NodeIdx} {path bits : List Bool}
    {codes : List (Byte × List Bool)} {x : Byte} (hl : (nodeAt nodes n).leaf = true)
    (hw : codeWalk nodes depth n path = some codes) (hx : (x, bits) ∈ codes) :
    x = (nodeAt nodes n).symbol ∧ bits = path := by
  rw [codeWalk_leaf nodes _ n path hl, Option.some.injEq] at hw
  simpa [← hw] using hx

/-- Every code of the walk is a path of at most `depth` bits to a leaf (R150). -/
theorem codeWalk_sound {nodes : NodeMem} {depth : Nat} {n : NodeIdx} {path : List Bool}
    {codes : List (Byte × List Bool)} (hw : codeWalk nodes depth n path = some codes)
    {x : Byte} {bits : List Bool} (hx : (x, bits) ∈ codes) :
    ∃ p m, bits = path ++ p ∧ p.length ≤ depth ∧ follow nodes n p = some m
      ∧ (nodeAt nodes m).leaf = true ∧ (nodeAt nodes m).symbol = x := by
  induction depth generalizing n path codes with
  | zero =>
    cases hl : (nodeAt nodes n).leaf with
    | false => simp [codeWalk, hl] at hw
    | true =>
      obtain ⟨rfl, rfl⟩ := codeWalk_leaf_mem hl hw hx
      exact ⟨[], n, by simp, by simp, rfl, hl, rfl⟩
  | succ depth ih =>
    cases hl : (nodeAt nodes n).leaf with
    | true =>
      obtain ⟨rfl, rfl⟩ := codeWalk_leaf_mem hl hw hx
      exact ⟨[], n, by simp, by simp, rfl, hl, rfl⟩
    | false =>
      obtain ⟨b, under, hnil, hunder, hx⟩ := (codeWalk_internal hl hw).1 _ hx
      obtain ⟨p, m, rfl, hlen, hp, hm⟩ := ih hunder hx
      exact ⟨b :: p, m, by simp, by simpa using hlen, by rw [follow_cons, if_neg hnil, hp], hm⟩

/-- Every path to a leaf is among the codes of the walk (R150). -/
theorem codeWalk_complete {nodes : NodeMem} {root : NodeIdx} (hT : TreeShape nodes root) {depth : Nat}
    {n m : NodeIdx} {path p : List Bool} {codes : List (Byte × List Bool)}
    (hw : codeWalk nodes depth n path = some codes) (hp : follow nodes n p = some m)
    (hm : isLeaf nodes m) : ((nodeAt nodes m).symbol, path ++ p) ∈ codes := by
  induction p generalizing n path depth codes with
  | nil =>
    obtain rfl : n = m := by simpa [follow] using hp
    rw [codeWalk_leaf nodes _ n path hm.2, Option.some.injEq] at hw
    simp [← hw]
  | cons b bs ih =>
    have hl : (nodeAt nodes n).leaf = false := by
      by_contra hl
      simpa using (hT.follow_leaf (hT.isLeaf_of_leaf (by simpa using hl)) hp).1
    cases depth with
    | zero => simp [codeWalk, hl] at hw
    | succ depth =>
      rw [follow_cons] at hp
      split at hp
      · simp at hp
      · next hnil =>
        obtain ⟨under, hunder, hsub⟩ := (codeWalk_internal hl hw).2 b hnil
        rw [List.append_cons]
        exact hsub (ih hunder hp)

/-! ### The code table (42_code_table R150, R152, R154) -/

/-- An entry of the table is invalid, or holds one of the codes. -/
theorem codeAt_codeTable (codes : List (Byte × List Bool)) (x : Byte) :
    (codeAt (codeTable codes) x = CodeEntry.invalid ∧ ∀ bits, (x, bits) ∉ codes)
      ∨ ∃ bits, (x, bits) ∈ codes ∧ codeAt (codeTable codes) x = { valid := true, bits := bits } := by
  unfold codeTable
  induction codes using List.reverseRecOn with
  | nil => exact .inl ⟨codeAt_emptyCodes x, by simp⟩
  | append_singleton codes c ih =>
    obtain ⟨y, bits⟩ := c
    rw [List.foldl_append, List.foldl_cons, List.foldl_nil]
    by_cases hxy : x = y
    · subst hxy
      exact .inr ⟨bits, by simp, codeAt_codeSet_same _ _ _⟩
    · rw [codeAt_codeSet_other _ _ hxy]
      rcases ih with ⟨hi, hn⟩ | ⟨bits', hm, he⟩
      · exact .inl ⟨hi, fun bits' => by simp [hn, hxy]⟩
      · exact .inr ⟨bits', by simp [hm], he⟩

/-- GEN's table holds the path to every leaf and nothing else (R150, R152, R154). -/
theorem tableOk_genTable {nodes : NodeMem} {root : NodeIdx} (hT : TreeShape nodes root) {t : CodeMem}
    (ht : genTable nodes root = some t) : TableOk nodes root t := by
  simp only [genTable, Option.map_eq_some_iff] at ht
  obtain ⟨codes, hw, rfl⟩ := ht
  have hcode : ∀ x : Byte, (codeAt (codeTable codes) x).valid = true →
      isLeaf nodes (x.setWidth 9) ∧ follow nodes root (codeAt (codeTable codes) x).bits = some (x.setWidth 9)
        ∧ (codeAt (codeTable codes) x).bits.length ≤ 255 := by
    intro x hv
    rcases codeAt_codeTable codes x with ⟨hi, _⟩ | ⟨bits, hm, he⟩
    · simp [hi, CodeEntry.invalid] at hv
    · obtain ⟨p, m, hp, hlen, hf, hl, rfl⟩ := codeWalk_sound hw hm
      have hleaf := hT.isLeaf_of_leaf hl
      rw [hT.leaf_idx hleaf, he, hp, List.nil_append]
      exact ⟨hleaf, hf, hlen⟩
  exact {
    valid_iff := fun x => by
      refine ⟨fun hv => (hcode x hv).1, fun hl => ?_⟩
      obtain ⟨p, hp⟩ := hT.reachable _ hl.1
      have hm := codeWalk_complete hT hw hp hl
      have hx : (nodeAt nodes (x.setWidth 9)).symbol = x := by
        apply BitVec.eq_of_toNat_eq
        rw [← (hT.leaf_form _ hl).1]
        have := x.isLt
        simp
        omega
      rw [hx] at hm
      rcases codeAt_codeTable codes x with ⟨_, hn⟩ | ⟨bits, _, he⟩
      · exact absurd hm (hn _)
      · rw [he]
    path := fun x hv => (hcode x hv).2.1
    length := fun x hv => by
      obtain ⟨hl, hf, hlen⟩ := hcode x hv
      refine ⟨List.length_pos_iff.2 fun hnil => ?_, hlen⟩
      rw [hnil, follow, Option.some.injEq] at hf
      have := hT.root_internal.2
      rw [hf, hl.2] at this
      simp at this
    invalid_form := fun x hv => by
      rcases codeAt_codeTable codes x with ⟨hi, _⟩ | ⟨bits, _, he⟩
      · exact hi
      · simp [he] at hv }

theorem mem_codeMem {t : CodeMem} {e : CodeEntry} : e ∈ t.toList ↔ ∃ x, codeAt t x = e := by
  rw [List.mem_iff_getElem]
  constructor
  · rintro ⟨i, hi, rfl⟩
    have hi : i < 256 := by simpa using hi
    exact ⟨BitVec.ofNat 8 i, by simp [codeAt, Nat.mod_eq_of_lt hi]⟩
  · rintro ⟨x, rfl⟩
    exact ⟨x.toNat, by simpa using x.isLt, by simp [codeAt]⟩

/-- The lengths of the valid codes. -/
theorem mem_codeLengths {t : CodeMem} {n : Nat} :
    n ∈ (t.toList.filter (·.valid)).map (·.bits.length) ↔
      ∃ x, (codeAt t x).valid = true ∧ (codeAt t x).bits.length = n := by
  simp only [List.mem_map, List.mem_filter, mem_codeMem]
  constructor
  · rintro ⟨_, ⟨⟨x, rfl⟩, hv⟩, hn⟩
    exact ⟨x, hv, hn⟩
  · rintro ⟨x, hv, hn⟩
    exact ⟨_, ⟨⟨x, rfl⟩, hv⟩, hn⟩

/-- The greatest length is that of a valid code, and no valid code is longer (R32). -/
theorem greatestLen_spec {t : CodeMem} (ht : ∃ x, (codeAt t x).valid = true) :
    (∃ x, (codeAt t x).valid = true ∧ (codeAt t x).bits.length = greatestLen t)
      ∧ ∀ x, (codeAt t x).valid = true → (codeAt t x).bits.length ≤ greatestLen t := by
  obtain ⟨x, hx⟩ := ht
  have hmem := mem_codeLengths.2 ⟨x, hx, rfl⟩
  obtain ⟨n, hn⟩ := Option.isSome_iff_exists.1 (List.isSome_max?_of_mem hmem)
  have hlen : greatestLen t = n := by rw [greatestLen, List.foldl_max, hn]; simp
  obtain ⟨hin, hmax⟩ := List.max?_eq_some_iff.1 hn
  rw [hlen]
  exact ⟨mem_codeLengths.1 hin, fun y hy => hmax _ (mem_codeLengths.2 ⟨y, hy, rfl⟩)⟩

/-- MAX_LEN as GEN writes it: the greatest length fits its 8 bits (R32, R154). -/
theorem maxLen_of_tableOk {nodes : NodeMem} {root : NodeIdx} (hT : TreeShape nodes root) {t : CodeMem}
    (ht : TableOk nodes root t) :
    (∃ x, (codeAt t x).valid = true ∧ (codeAt t x).bits.length = (BitVec.ofNat 8 (greatestLen t)).toNat)
      ∧ ∀ x, (codeAt t x).valid = true →
          (codeAt t x).bits.length ≤ (BitVec.ofNat 8 (greatestLen t)).toNat := by
  obtain ⟨m, hm⟩ := hT.exists_leaf root hT.root_internal.1
  have hv : ∃ x, (codeAt t x).valid = true :=
    ⟨(nodeAt nodes m).symbol, (ht.valid_iff _).2 (by rwa [hT.leaf_idx hm])⟩
  obtain ⟨⟨x, hx, hlen⟩, hmax⟩ := greatestLen_spec hv
  have hle := (ht.length x hx).2
  have hfit : (BitVec.ofNat 8 (greatestLen t)).toNat = greatestLen t := by
    simp
    omega
  rw [hfit]
  exact ⟨⟨x, hx, hlen⟩, hmax⟩

end Sys2Proof.Machine

/-! PROOFS. The registers and the status words, what every command and every transaction writes and keeps, and
the obligations of 10_state but for the invariant. -/

namespace Sys2Proof.Machine

/-! ### Registers (10_state R20, R23 to R27; 20_memory R64, R65) -/

/-- An offset below 0x40 names a register (R20, R62). -/
theorem State.locate_of_lt (s : State) {offset : Word} (h : offset.toNat < 0x40) :
    s.locate offset = .register (Reg.ofIndex (offset.toNat / 4)) := by
  simp [State.locate, h]

/-- No other offset does. -/
theorem State.locate_register {s : State} {offset : Word} {r : Reg} (h : s.locate offset = .register r) :
    offset.toNat < 0x40 ∧ r = Reg.ofIndex (offset.toNat / 4) := by
  by_cases hr : offset.toNat < 0x40
  · rw [s.locate_of_lt hr, Loc.register.injEq] at h
    exact ⟨hr, h.symm⟩
  · simp only [State.locate, hr, if_false, bufferLoc] at h
    split_ifs at h

/-- The register of a 4-aligned offset is read at any time (R64, R74). -/
theorem exec_rd32_register (s : State) {offset : Word} (ha : aligned offset = true)
    (hr : offset.toNat < 0x40) : exec (.rd32 offset) s =
      .next { s with responses := .data32 (s.readReg (Reg.ofIndex (offset.toNat / 4))) :: s.responses } := by
  simp [exec, execRd32, State.rd32Response, ha, s.locate_of_lt hr, State.respond_eq]

/-- A write to a register's 4-aligned offset is the register's write (R65). -/
theorem exec_wr32_register (s : State) (v : Word) {offset : Word} (ha : aligned offset = true)
    (hr : offset.toNat < 0x40) : exec (.wr32 offset v) s =
      .next (s.answerWrite (s.writeReg v (Reg.ofIndex (offset.toNat / 4)))) := by
  simp [exec, execWr32, State.wr32Effect, ha, s.locate_of_lt hr]

/-- Settles O52: the sixteen registers are those of the offsets 4·k, k = 0..15. -/
theorem registerReads : Obligations.RegisterReads := by
  intro s
  change ∀ p ∈ (List.range 16).map
    (fun k => (BitVec.ofNat 32 (4 * k), s.readReg (Reg.ofIndex k))), _
  intro p hp
  obtain ⟨k, hk, rfl⟩ := List.mem_map.1 hp
  have hk : k < 16 := List.mem_range.1 hk
  have ho : (BitVec.ofNat 32 (4 * k)).toNat = 4 * k := by simp; omega
  have he := exec_rd32_register s (offset := BitVec.ofNat 32 (4 * k)) (by simp only [aligned, ho]; simp)
    (by omega)
  rwa [ho, Nat.mul_div_cancel_left k (by decide)] at he

theorem exec_wr32_status (s : State) (v : Word) : exec (.wr32 0x008 v) s = .next { s with
    errSticky := s.errSticky && !v.getLsbD 16, responses := .okay :: s.responses } :=
  exec_wr32_register s v (by decide) (by decide)

/-- Settles O54: each write is that of the register at its offset. -/
theorem registerWrites : Obligations.RegisterWrites := by
  intro s v
  refine ⟨exec_wr32_status s v, exec_wr32_register s v (by decide) (by decide),
    exec_wr32_register s v (by decide) (by decide), fun hp => ?_, fun hp => ?_⟩
  · refine (exec_wr32_register s v (by decide) (by decide)).trans ?_
    simp [Reg.ofIndex, State.writeReg, s.busy_false_iff.2 hp]
  · refine (exec_wr32_register s v (by decide) (by decide)).trans ?_
    simp [Reg.ofIndex, State.writeReg, s.busy_false_iff.2 hp]

/-! ### The status words (10_state R23 to R25, R36, R50) -/

theorem statusWord_bits (s : State) :
    s.statusWord.getLsbD 0 = s.pending.isSome ∧ s.statusWord.getLsbD 1 = s.treeValid
      ∧ s.statusWord.getLsbD 2 = s.ctValid ∧ s.statusWord.getLsbD 3 = false
      ∧ s.statusWord.getLsbD 16 = s.errSticky := by
  simp only [State.statusWord, State.busy, BitVec.getLsbD_append]
  simp

theorem statusWord_fields (s : State) :
    s.statusWord.extractLsb' 4 4 = s.lastErr.bits ∧ s.statusWord.extractLsb' 8 4 = s.lastOp
      ∧ s.statusWord.extractLsb' 12 4 = s.errSub ∧ s.statusWord.extractLsb' 17 15 = 0 := by
  simp (disch := omega) only [State.statusWord, BitVec.extractLsb'_append_eq_of_le]
  exact ⟨extract_low _ _, extract_low _ _, extract_low _ _, BitVec.extractLsb'_eq_self⟩

theorem intStatusWord_bits (s : State) :
    s.intStatusWord.getLsbD 0 = s.intDone ∧ s.intStatusWord.getLsbD 1 = s.intErr := by
  simp only [State.intStatusWord, BitVec.getLsbD_append]
  simp

theorem intEnableWord_bits (s : State) :
    s.intEnableWord.getLsbD 0 = s.doneEn ∧ s.intEnableWord.getLsbD 1 = s.errEn := by
  simp only [State.intEnableWord, BitVec.getLsbD_append]
  simp

/-- The reserved bits of INT_STATUS and INT_ENABLE (R24, R25). -/
theorem intWords_reserved (s : State) :
    s.intStatusWord.extractLsb' 2 30 = 0 ∧ s.intEnableWord.extractLsb' 2 30 = 0 := by
  simp (disch := omega) only [State.intStatusWord, State.intEnableWord,
    BitVec.extractLsb'_append_eq_of_le]
  exact ⟨BitVec.extractLsb'_eq_self, BitVec.extractLsb'_eq_self⟩

/-- Settles O53, field by field. -/
theorem statusWordLayout : Obligations.StatusWordLayout := by
  refine ⟨fun s => ?_, rfl⟩
  obtain ⟨hbusy, htree, hct, hres, hsticky⟩ := statusWord_bits s
  obtain ⟨herr, hop, hsub, hhigh⟩ := statusWord_fields s
  obtain ⟨hdone, hierr⟩ := intStatusWord_bits s
  obtain ⟨hdoneEn, herrEn⟩ := intEnableWord_bits s
  obtain ⟨hst, hen⟩ := intWords_reserved s
  exact ⟨hbusy, htree, hct, hres, herr, hop, hsub, hsticky, hhigh, hdone, hierr, hst, hdoneEn, herrEn,
    hen⟩

/-- Settles O7: every register and table by its reset value, the entries of the tables through those of the
empty tables. -/
theorem resetValues : Obligations.ResetValues := by
  refine ⟨rfl, fun p => ?_⟩
  have hirq : (State.resetWith p).irq = false := rfl
  refine ⟨rfl, ?_, ?_, ?_, hirq, rfl, rfl, rfl, rfl, rfl, rfl, rfl, rfl, rfl, rfl, rfl, rfl, rfl,
    histAt_emptyHist, nodeAt_emptyNodes, codeAt_emptyCodes, fun _ => rfl⟩
  all_goals
    simp [State.statusWord, State.intStatusWord, State.intEnableWord, State.busy, State.resetWith,
      ErrCode.bits]

/-! ### What a command's rule writes (40_histogram to 45_control) -/

/-- What a command's rule writes when it succeeds: the state `u` it makes of `s` (R120, R130, R150, R165,
R185, R213, R214). -/
inductive State.Writes (s : State) : Instr → State → Prop
  | nop : s.Writes .nop s
  | clr : s.Writes .clr s.cleared
  | count (h : HistMem) : h = histogram (s.inputBytes s.inLen.toNat) →
      s.Writes .count { s with hist := h, nsym := BitVec.ofNat 9 (distinctSymbols h) }
  | build : distinctSymbols s.hist ≠ 0 → s.Writes .build { s with
      node := buildNodes s.hist, root := buildRoot (distinctSymbols s.hist), treeValid := true
      nsym := BitVec.ofNat 9 (distinctSymbols s.hist)
      ctab := emptyCodes, ctValid := false, maxLen := 0 }
  | gen (t : CodeMem) : s.treeValid = true → genTable s.node s.root = some t →
      s.Writes .gen (s.withTable t)
  | pack (bits : List Bool) : encodeBytes s.ctab 0 (s.inputBytes s.inLen.toNat) = .ok bits →
      4 + ceil8 bits.length ≤ s.pbufSize.toNat → s.Writes .pack (s.withArtifact bits)
  | unpackEmpty : s.headerBits = 0 → s.Writes .unpack { s with outLen := 0, bitLen := 0 }
  | unpack (out : List Byte) (b : Nat) : b = s.headerBits →
      decodeBytes s.node s.root s.dbufSize.toNat (s.artifactBits b) = .ok out →
      s.Writes .unpack (s.withOutput out b)

theorem countResult_writes {s u : State} (h : countResult s = .ok u) : s.Writes .count u := by
  unfold countResult at h
  split at h
  · simp at h
  · obtain rfl := Except.ok.inj h
    exact .count _ rfl

theorem buildResult_writes {s u : State} (h : buildResult s = .ok u) : s.Writes .build u := by
  unfold buildResult at h
  dsimp only at h
  split at h
  · simp at h
  · next h0 =>
    obtain rfl := Except.ok.inj h
    exact .build h0

theorem packResult_writes {s u : State} (h : packResult s = .ok u) : s.Writes .pack u := by
  unfold packResult at h
  split at h
  · simp at h
  · split at h
    · simp at h
    · next bits hbits =>
      split at h
      · simp at h
      · obtain rfl := Except.ok.inj h
        exact .pack bits hbits (by omega)

theorem unpackResult_writes {s u : State} (h : unpackResult s = .ok u) : s.Writes .unpack u := by
  unfold unpackResult at h
  dsimp only at h
  split_ifs at h with _ _ _ hb hv
  · obtain rfl := Except.ok.inj h
    exact .unpackEmpty hb
  · split at h
    · next out hout =>
      obtain rfl := Except.ok.inj h
      exact .unpack out _ rfl hout
    · simp at h

/-- Everything a command's rule can write. -/
theorem writes_of_commandResult {i : Instr} {s u : State} (h : commandResult i s = some (.ok u)) :
    s.Writes i u := by
  cases i with
  | nop =>
    obtain rfl := Except.ok.inj (Option.some.inj h)
    exact .nop
  | clr =>
    obtain rfl := Except.ok.inj (Option.some.inj h)
    exact .clr
  | count => exact countResult_writes (Option.some.inj h)
  | build => exact buildResult_writes (Option.some.inj h)
  | pack => exact packResult_writes (Option.some.inj h)
  | unpack => exact unpackResult_writes (Option.some.inj h)
  | gen =>
    simp only [commandResult] at h
    split at h
    · next hv =>
      obtain ⟨t, ht, hu⟩ := Option.map_eq_some_iff.1 h
      obtain rfl := Except.ok.inj hu
      exact .gen t hv ht
    · simp at h
  | _ => simp [commandResult] at h

/-- The output of a decoded bit string has room in DBUF (R193). -/
theorem decodeBytes_length {nodes : NodeMem} {root : NodeIdx} {room : Nat} {bits : List Bool}
    {out : List Byte} (h : decodeBytes nodes root room bits = .ok out) : out.length ≤ room := by
  unfold decodeBytes at h
  split at h
  · simp at h
  · next n out' hw =>
    split at h
    · obtain rfl := Except.ok.inj h
      exact bitWalk_length hw (Nat.zero_le _)
    · simp at h

/-- The fields a command's rule may write: lengths, NSYM and the tables with their flags, and bytes; every
other field it keeps (R83). -/
theorem State.Writes.frame {i : Instr} {s u : State} (h : s.Writes i u) :
    u = { s with
      pkLen := u.pkLen, bitLen := u.bitLen, outLen := u.outLen, nsym := u.nsym, mem := u.mem
      hist := u.hist, node := u.node, root := u.root, treeValid := u.treeValid
      ctab := u.ctab, ctValid := u.ctValid, maxLen := u.maxLen } := by
  cases h <;> rfl

/-- The bytes a command's rule may write: those of PBUF and DBUF (R83). -/
theorem State.Writes.mem {i : Instr} {s u : State} (h : s.Writes i u) :
    u.mem = s.mem ∨ ∃ base size vs,
      (base, size) ∈ [(Config.pbufBase, s.pbufSize), (Config.dbufBase, s.dbufSize)]
        ∧ vs.length ≤ size.toNat ∧ u.mem = Memory.writeBytes s.mem base vs := by
  cases h with
  | pack bits _ hlen => exact .inr ⟨_, _, artifact bits, List.mem_cons_self, by simpa using hlen, rfl⟩
  | unpack out _ _ hout =>
    exact .inr ⟨_, _, out, List.mem_cons_of_mem _ (List.mem_singleton_self _), decodeBytes_length hout, rfl⟩
  | _ => exact .inl rfl

/-- The registers and the fields of the model's own that no command writes (R26, R34, R83). -/
structure State.KeepsHost (s t : State) : Prop where
  inLen : t.inLen = s.inLen
  doneEn : t.doneEn = s.doneEn
  errEn : t.errEn = s.errEn
  ibufSize : t.ibufSize = s.ibufSize
  pbufSize : t.pbufSize = s.pbufSize
  dbufSize : t.dbufSize = s.dbufSize
  draws : t.draws = s.draws
  schedule : t.schedule = s.schedule
  responses : t.responses = s.responses

theorem exec_command_keepsHost {i : Instr} {s t : State} (hi : i.isCommand = true)
    (h : exec i s = .next t) : s.KeepsHost t := by
  rcases exec_command_next hi h with ⟨u, hu, rfl⟩ | ⟨e, _, rfl⟩
  · rw [(writes_of_commandResult hu).frame]
    exact ⟨rfl, rfl, rfl, rfl, rfl, rfl, rfl, rfl, rfl⟩
  · exact ⟨rfl, rfl, rfl, rfl, rfl, rfl, rfl, rfl, rfl⟩

/-- A command keeps the bytes of IBUF, which lies below PBUF and DBUF (R41, R62). -/
theorem exec_command_ibufByte {i : Instr} {s t : State} (hi : i.isCommand = true)
    (hs : s.sizesOk = true) (h : exec i s = .next t) {k : Nat} (hk : k < s.ibufSize.toNat) :
    t.ibufByte k = s.ibufByte k := by
  have hd := (exec_command_keepsHost hi h).draws
  rcases exec_command_next hi h with ⟨u, hu, rfl⟩ | ⟨e, _, rfl⟩
  · rcases (writes_of_commandResult hu).mem with hm | ⟨base, size, vs, hb, _, hm⟩
    · exact State.readByte_congr hm hd _
    · have hibuf := ((sizeOk_iff _).1 (s.sizesOk_iff.1 hs).1).2.2
      have hbase : Config.ibufBase + k < base := by
        simp only [List.mem_cons, Prod.mk.injEq, List.not_mem_nil, or_false] at hb
        simp only [Config.ibufBase, Config.pbufBase, Config.dbufBase] at hb ⊢
        omega
      calc State.readByte (u.succeeded (commandOp i)) (Config.ibufBase + k)
          = (s.writeBytes base vs).readByte (Config.ibufBase + k) :=
            State.readByte_congr (s := s.writeBytes base vs) hm hd _
        _ = s.readByte (Config.ibufBase + k) := s.readByte_writeBytes_outside vs (.inl hbase)
  · rfl

/-- Settles O11: the registers by the frame of the rules, IBUF by its address. -/
theorem commandsKeepHostState : Obligations.CommandsKeepHostState := by
  intro i s t hi hs h
  have hK := exec_command_keepsHost hi h
  exact ⟨hK.inLen, hK.doneEn, hK.errEn, hK.ibufSize, hK.pbufSize, hK.dbufSize, hK.draws, hK.schedule,
    hK.responses, fun k hk => exec_command_ibufByte hi hs h hk⟩

/-! ### What a transaction writes (20_memory R63 to R75) -/

theorem wr8Effect_frame {s t : State} {offset : Word} {v : Byte} (h : s.wr8Effect offset v = some t) :
    t = { s with mem := t.mem } := by
  obtain ⟨_, a, _, rfl⟩ := State.wr8Effect_cases h
  rfl

theorem writeReg_frame {s t : State} {v : Word} {r : Reg} (h : s.writeReg v r = some t) :
    t = { s with
      pending := t.pending, errSticky := t.errSticky, intDone := t.intDone, intErr := t.intErr
      doneEn := t.doneEn, errEn := t.errEn, inLen := t.inLen, pkLen := t.pkLen } := by
  rcases State.writeReg_cases h with
    ⟨_, rfl⟩ | ⟨_, rfl⟩ | ⟨_, rfl⟩ | ⟨_, ⟨_, rfl⟩ | ⟨_, rfl⟩ | ⟨_, rfl⟩⟩ <;> rfl

theorem wr32Effect_frame {s t : State} {offset v : Word} (h : s.wr32Effect offset v = some t) :
    t = { s with
      pending := t.pending, errSticky := t.errSticky, intDone := t.intDone, intErr := t.intErr
      doneEn := t.doneEn, errEn := t.errEn, inLen := t.inLen, pkLen := t.pkLen
      hist := t.hist, mem := t.mem } := by
  obtain ⟨_, ⟨r, _, hr⟩ | ⟨_, x, _, rfl⟩ | ⟨_, a, _, rfl⟩⟩ := State.wr32Effect_cases h
  · rw [writeReg_frame hr]
  · rfl
  · rfl

/-- The fields a transaction may write; every other field it keeps. -/
theorem exec_transaction_frame {i : Instr} {s t : State} (hi : i.isCommand = false)
    (h : exec i s = .next t) : t = { s with
      pending := t.pending, errSticky := t.errSticky, intDone := t.intDone, intErr := t.intErr
      doneEn := t.doneEn, errEn := t.errEn, inLen := t.inLen, pkLen := t.pkLen
      hist := t.hist, mem := t.mem, responses := t.responses } := by
  rcases exec_transaction hi s with ⟨r, he⟩ | ⟨_, _, u, _, hu, he⟩ | ⟨_, _, u, _, hu, he⟩ <;>
    rw [he, Host.Outcome.next.injEq] at h <;> subst h
  · rfl
  · rw [wr8Effect_frame hu]
  · rw [wr32Effect_frame hu]

/-- A rule other than those of BUILD and CLR keeps the tree (R38, R44), and unless it is GEN's the code
table too (R40). -/
theorem State.Writes.keeps_tables {i : Instr} {s u : State} (h : s.Writes i u) (hb : i ≠ .build)
    (hc : i ≠ .clr) :
    u.node = s.node ∧ u.root = s.root ∧ u.treeValid = s.treeValid
      ∧ (i ≠ .gen → u.ctab = s.ctab ∧ u.ctValid = s.ctValid ∧ u.maxLen = s.maxLen) := by
  cases h with
  | build => exact absurd rfl hb
  | clr => exact absurd rfl hc
  | gen => exact ⟨rfl, rfl, rfl, fun hg => absurd rfl hg⟩
  | _ => exact ⟨rfl, rfl, rfl, fun _ => ⟨rfl, rfl, rfl⟩⟩

/-- Settles O12: commands by their rules, transactions by their frame. -/
theorem onlyBuildGenClrWriteTables : Obligations.OnlyBuildGenClrWriteTables := by
  intro i s t h hb hc
  cases hi : i.isCommand with
  | true =>
    rcases exec_command_next hi h with ⟨u, hu, rfl⟩ | ⟨e, _, rfl⟩
    · exact (writes_of_commandResult hu).keeps_tables hb hc
    · exact ⟨rfl, rfl, rfl, fun _ => ⟨rfl, rfl, rfl⟩⟩
  | false =>
    rw [exec_transaction_frame hi h]
    exact ⟨rfl, rfl, rfl, fun _ => ⟨rfl, rfl, rfl⟩⟩

/-! ### ERR_STICKY and the interrupt (10_state R23, R36; 60_exceptions R237, R238) -/

/-- STATUS is the register of word offset 2 (R20). -/
theorem Reg.ofIndex_eq_status {k : Nat} (h : Reg.ofIndex k = .status) : k = 2 := by
  unfold Reg.ofIndex at h
  split at h <;> simp_all

theorem offset_of_locate_status {s : State} {offset : Word} (ha : aligned offset = true)
    (hl : s.locate offset = .register .status) : offset = 0x008 := by
  have hk := Reg.ofIndex_eq_status (State.locate_register hl).2.symm
  simp only [aligned, beq_iff_eq] at ha
  apply BitVec.eq_of_toNat_eq
  simp
  omega

/-- No command clears ERR_STICKY (R211). -/
theorem exec_command_errSticky {i : Instr} {s t : State} (hi : i.isCommand = true)
    (h : exec i s = .next t) (hs : s.errSticky = true) : t.errSticky = true := by
  rcases exec_command_next hi h with ⟨u, hu, rfl⟩ | ⟨e, _, rfl⟩
  · rw [(writes_of_commandResult hu).frame]
    exact hs
  · rfl

/-- A transaction that clears ERR_STICKY writes one to bit 16 of STATUS (R23). -/
theorem wr32Effect_errSticky {s t : State} {offset v : Word} (h : s.wr32Effect offset v = some t)
    (hs : s.errSticky = true) (ht : t.errSticky = false) : offset = 0x008 ∧ v.getLsbD 16 = true := by
  obtain ⟨ha, ⟨r, hl, hr⟩ | ⟨_, x, _, rfl⟩ | ⟨_, a, _, rfl⟩⟩ := State.wr32Effect_cases h
  · rcases State.writeReg_cases hr with
      ⟨rfl, rfl⟩ | ⟨_, rfl⟩ | ⟨_, rfl⟩ | ⟨_, ⟨_, rfl⟩ | ⟨_, rfl⟩ | ⟨_, rfl⟩⟩
    · exact ⟨offset_of_locate_status ha hl, by simpa [hs] using ht⟩
    all_goals simp [hs] at ht
  all_goals simp [hs] at ht

/-- Settles O14: of all instructions only a WR32 to STATUS takes ERR_STICKY back. -/
theorem stickyClearedOnlyByWriteOne : Obligations.StickyClearedOnlyByWriteOne := by
  intro i s t h hs
  constructor
  · intro ht
    cases hi : i.isCommand with
    | true => simp [exec_command_errSticky hi h hs] at ht
    | false =>
      rcases exec_transaction hi s with ⟨r, he⟩ | ⟨_, _, u, _, hu, he⟩ | ⟨offset, v, u, rfl, hu, he⟩ <;>
        rw [he, Host.Outcome.next.injEq] at h <;> subst h
      · simp [hs] at ht
      · rw [wr8Effect_frame hu] at ht
        simp [hs] at ht
      · obtain ⟨rfl, hv⟩ := wr32Effect_errSticky hu hs ht
        exact ⟨v, rfl, hv⟩
  · rintro ⟨v, rfl, hv⟩
    rw [exec_wr32_status, Host.Outcome.next.injEq] at h
    simp [← h, hv]

theorem irq_iff (s : State) :
    s.irq = true ↔ (s.intDone = true ∧ s.doneEn = true) ∨ (s.intErr = true ∧ s.errEn = true) := by
  simp [State.irq]

/-- Every completion sets DONE, one with an error sets ERR too (R211). -/
theorem exec_command_interrupt {i : Instr} {s t : State} (hi : i.isCommand = true)
    (h : exec i s = .next t) : t.intDone = true ∧ (t.lastErr ≠ .ok → t.intErr = true) := by
  rcases exec_command_next hi h with ⟨u, _, rfl⟩ | ⟨e, _, rfl⟩
  · exact ⟨rfl, fun he => absurd rfl he⟩
  · exact ⟨rfl, fun _ => rfl⟩

/-- Settles O59: the level is read off the two words, and a completion sets the flags it is made of. -/
theorem interruptLevel : Obligations.InterruptLevel := by
  refine ⟨fun s => ?_, rfl, fun i s t hi h => ?_⟩
  · obtain ⟨hdone, herr⟩ := intStatusWord_bits s
    obtain ⟨hdoneEn, herrEn⟩ := intEnableWord_bits s
    rw [State.readReg, State.readReg, hdone, herr, hdoneEn, herrEn, irq_iff]
  · obtain ⟨hdone, herr⟩ := exec_command_interrupt hi h
    have hK := exec_command_keepsHost hi h
    rw [irq_iff, hK.doneEn, hK.errEn]
    exact ⟨fun hen => .inl ⟨hdone, hen⟩, fun hen he => .inr ⟨herr he, hen⟩⟩

end Sys2Proof.Machine

/-! PROOFS. The invariant: each command and each transaction keeps it, so every step does. -/

namespace Sys2Proof.Machine

/-! ### The parts of the invariant (10_state R8, R29, R30, R44, R45; 30_encoding R105) -/

/-- The invariant reads neither the registers named here nor HIST, and of the memory only its form. -/
theorem State.Inv.update {s : State} (h : s.Inv) {pending : Option Word} {lastOp : BitVec 4}
    {errSticky intDone intErr doneEn errEn : Bool} {inLen pkLen bitLen : Word} {hist : HistMem}
    {mem : Memory} {draws : Nat} {schedule : List Event} {responses : List Response}
    (hm : State.memOk { s with mem := mem } = true) :
    State.Inv { s with
      pending := pending, lastOp := lastOp, errSticky := errSticky, intDone := intDone, intErr := intErr
      doneEn := doneEn, errEn := errEn, inLen := inLen, pkLen := pkLen, bitLen := bitLen, hist := hist
      mem := mem, draws := draws, schedule := schedule, responses := responses } :=
  { h with mem := hm }

/-- Consecutive bytes within the buffers keep the memory's form (R70). -/
theorem memOk_writeBytes {s : State} {a : Nat} {vs : List Byte} (h : s.memOk = true)
    (hb : ∀ b, a ≤ b → b < a + vs.length → s.inBuffers b = true) : (s.writeBytes a vs).memOk = true := by
  simp only [State.memOk, Bool.and_eq_true, List.all_eq_true] at h ⊢
  exact ⟨Memory.wf_writeBytes _ _ _ h.1, Memory.forall_writeBytes _ _ _ h.2 hb⟩

/-- Every command error has a listed sub-cause of an error code (R105). -/
theorem CmdError.sub_listed (e : CmdError) :
    e.code ≠ .ok ∧ 1 ≤ e.sub.toNat ∧ e.sub.toNat ≤ e.code.subCauses := by
  cases e with
  | illegalWord w =>
    simp only [CmdError.code, CmdError.sub]
    split <;> decide
  | _ => simp [CmdError.code, CmdError.sub, ErrCode.subCauses]

theorem statusOk_failed (s : State) (op : BitVec 4) (e : CmdError) :
    (s.failed op e.code e.sub e.pos).statusOk = true := by
  simp [State.statusOk, e.sub_listed]

theorem State.Inv.failed {s : State} (h : s.Inv) (op : BitVec 4) (e : CmdError) :
    (s.failed op e.code e.sub e.pos).Inv :=
  { h with status := statusOk_failed s op e }

theorem State.Inv.succeeded {s : State} (h : s.Inv) (op : BitVec 4) : (s.succeeded op).Inv :=
  { h with status := rfl }

/-! ### Commands keep the invariant -/

/-- An empty code table agrees with CT_VALID 0 and MAX_LEN 0 (R45). -/
theorem codesOk_of_empty {s : State} (hc : s.ctab = emptyCodes) (hv : s.ctValid = false)
    (hl : s.maxLen = 0) : s.codesOk := by
  simp [State.codesOk, hc, hv, hl]

/-- An empty node memory agrees with TREE_VALID 0 and ROOT NIL (R44). -/
theorem treeOk_of_empty {s : State} (hn : s.node = emptyNodes) (hv : s.treeValid = false)
    (hr : s.root = Config.nilIdx) : s.treeOk := by
  simp [State.treeOk, hn, hv, hr]

/-- The table GEN makes is the tree's, with its MAX_LEN (R150, R152, R154). -/
theorem codesOk_withTable {s : State} {t : CodeMem} (hT : s.treeOk) (hv : s.treeValid = true)
    (ht : genTable s.node s.root = some t) : (s.withTable t).codesOk := by
  have hS : TreeShape s.node s.root := by simpa [State.treeOk, hv] using hT
  have hok := tableOk_genTable hS ht
  exact ⟨hv, hok, maxLen_of_tableOk hS hok⟩

/-- NSYM counts at most 256 symbols (R30). -/
theorem nsym_le (h : HistMem) : (BitVec.ofNat 9 (distinctSymbols h)).toNat ≤ 256 := by
  have := distinctSymbols_le h
  simp
  omega

/-- What a command's rule may write lies in the buffers (R70). -/
theorem State.Writes.memOk {i : Instr} {s u : State} (hw : s.Writes i u) (h : s.memOk = true) :
    State.memOk { s with mem := u.mem } = true := by
  rcases hw.mem with hm | ⟨base, size, vs, hb, hlen, hm⟩
  · rw [hm]
    exact h
  · rw [hm]
    refine memOk_writeBytes h fun b h₁ h₂ => (s.inBuffers_iff b).2 ?_
    simp only [List.mem_cons, Prod.mk.injEq, List.not_mem_nil, or_false] at hb
    rcases hb with ⟨rfl, rfl⟩ | ⟨rfl, rfl⟩
    · exact .inr (.inl ⟨h₁, by omega⟩)
    · exact .inr (.inr ⟨h₁, by omega⟩)

/-- Every command's rule keeps the invariant: BUILD by the shape of its tree, GEN by its table. -/
theorem State.Writes.inv {i : Instr} {s u : State} (hw : s.Writes i u) (h : s.Inv) : u.Inv := by
  have hm := hw.memOk h.mem
  cases hw with
  | nop => exact h
  | clr =>
    exact { h with
      nsym := Nat.zero_le _
      outLen := Nat.zero_le _
      nil := nodeAt_emptyNodes _
      tree := treeOk_of_empty rfl rfl rfl
      codes := codesOk_of_empty rfl rfl rfl }
  | count hist _ => exact { h with nsym := nsym_le hist }
  | build h0 =>
    have hT := treeShape_buildNodes h0
    exact { h with
      nsym := nsym_le s.hist
      nil := hT.nil_invalid
      tree := hT
      codes := codesOk_of_empty rfl rfl rfl }
  | gen t hv ht => exact { h with codes := codesOk_withTable h.tree hv ht }
  | pack bits _ _ => exact h.update hm
  | unpackEmpty _ => exact { h with outLen := Nat.zero_le _ }
  | unpack out b _ hout =>
    have hlen := decodeBytes_length hout
    have hout : (BitVec.ofNat 32 out.length).toNat ≤ s.dbufSize.toNat :=
      (BitVec.toNat_ofNat _ _ ▸ Nat.mod_le _ _).trans hlen
    exact { h with mem := hm, outLen := hout }

theorem exec_command_inv {i : Instr} {s t : State} (hi : i.isCommand = true) (h : s.Inv)
    (he : exec i s = .next t) : t.Inv := by
  rcases exec_command_next hi he with ⟨u, hu, rfl⟩ | ⟨e, _, rfl⟩
  · exact ((writes_of_commandResult hu).inv h).succeeded _
  · exact h.failed _ _

/-! ### Transactions keep the invariant -/

/-- The four bytes of a 4-aligned word lie in a buffer when its first does, since the sizes are multiples
of 4 (R8, R70, R72). -/
theorem inBuffers_word {s : State} {a b : Nat} (hs : s.sizesOk = true) (ha : a % 4 = 0)
    (hin : s.inBuffers a = true) (h₁ : a ≤ b) (h₂ : b < a + 4) : s.inBuffers b = true := by
  simp only [State.sizesOk_iff, sizeOk_iff] at hs
  simp only [State.inBuffers_iff, Config.ibufBase, Config.pbufBase, Config.dbufBase] at hin ⊢
  omega

theorem wr8Effect_memOk {s t : State} {offset : Word} {v : Byte} (hm : s.memOk = true)
    (h : s.wr8Effect offset v = some t) : State.memOk { s with mem := t.mem } = true := by
  obtain ⟨_, a, hl, rfl⟩ := State.wr8Effect_cases h
  refine memOk_writeBytes hm fun b h₁ h₂ => ?_
  obtain rfl : b = a := by simp at h₂; omega
  exact (State.locate_buffer hl).2

theorem wr32Effect_memOk {s t : State} {offset v : Word} (hs : s.sizesOk = true) (hm : s.memOk = true)
    (h : s.wr32Effect offset v = some t) : State.memOk { s with mem := t.mem } = true := by
  obtain ⟨ha, ⟨r, _, hr⟩ | ⟨_, x, _, rfl⟩ | ⟨_, a, hl, rfl⟩⟩ := State.wr32Effect_cases h
  · have hmem : t.mem = s.mem := by rw [writeReg_frame hr]
    rw [hmem]
    exact hm
  · exact hm
  · obtain ⟨rfl, hin⟩ := State.locate_buffer hl
    exact memOk_writeBytes hm fun b h₁ h₂ =>
      inBuffers_word hs (by simpa [aligned] using ha) hin h₁ (by simpa [bytesLE] using h₂)

theorem exec_transaction_memOk {i : Instr} {s t : State} (hi : i.isCommand = false)
    (hs : s.sizesOk = true) (hm : s.memOk = true) (h : exec i s = .next t) :
    State.memOk { s with mem := t.mem } = true := by
  rcases exec_transaction hi s with ⟨r, he⟩ | ⟨_, _, u, _, hu, he⟩ | ⟨_, _, u, _, hu, he⟩ <;>
    rw [he, Host.Outcome.next.injEq] at h <;> subst h
  · exact hm
  · have := wr8Effect_memOk hm hu
    exact this
  · have := wr32Effect_memOk hs hm hu
    exact this

theorem exec_transaction_inv {i : Instr} {s t : State} (hi : i.isCommand = false) (h : s.Inv)
    (he : exec i s = .next t) : t.Inv := by
  rw [exec_transaction_frame hi he]
  exact h.update (exec_transaction_memOk hi h.sizes h.mem he)

/-! ### Every step keeps the invariant -/

/-- The reset state meets the invariant: it has no tree, no table and no written byte. -/
theorem inv_resetWith {p : Config.Params} (hp : p.ok = true) : (State.resetWith p).Inv where
  sizes := hp
  mem := rfl
  status := rfl
  nsym := Nat.zero_le _
  outLen := Nat.zero_le _
  nil := nodeAt_emptyNodes _
  tree := treeOk_of_empty rfl rfl rfl
  codes := codesOk_of_empty rfl rfl rfl

/-- Settles O15. -/
theorem resetMeetsInvariant : Obligations.ResetMeetsInvariant := fun _ hp => inv_resetWith hp

theorem inv_resetEvent {s : State} (h : s.Inv) : s.resetEvent.Inv :=
  (inv_resetWith (p := ⟨s.ibufSize, s.pbufSize, s.dbufSize⟩) h.sizes).update rfl

theorem exec_inv {i : Instr} {s t : State} (h : s.Inv) (he : exec i s = .next t) : t.Inv := by
  cases hi : i.isCommand with
  | true => exact exec_command_inv hi h he
  | false => exact exec_transaction_inv hi h he

/-- Settles O16: each kind of step keeps the invariant. -/
theorem stepKeepsInvariant : Obligations.StepKeepsInvariant := by
  intro s t h hstep
  obtain ⟨events, hcases⟩ := step_next_cases hstep
  have hs : State.Inv { s with schedule := events } := h.update h.mem
  rcases hcases with ⟨tr, _, he⟩ | ⟨_, rfl⟩ | ⟨_, ⟨w, _, he⟩ | ⟨_, rfl⟩⟩
  · exact exec_inv hs he
  · exact inv_resetEvent hs
  · exact exec_inv hs he
  · exact hs

end Sys2Proof.Machine

/-! PROOFS. The address map region by region, the bus errors of R63, what a pending command keeps, and the
windows onto HIST, NODE, CTAB and the buffers: the obligations of 20_memory. -/

namespace Sys2Proof.Machine

/-! ### The address map (20_memory R62, R70) -/

/-- What offset `a` names, by the rows of the address map (R62). -/
inductive State.Names (s : State) (a : Nat) : Loc → Prop where
  | register (h : a < 0x40) : s.Names a (.register (Reg.ofIndex (a / 4)))
  | hist (h₁ : 0x400 ≤ a) (h₂ : a < 0x800) : s.Names a (.hist (BitVec.ofNat 8 ((a - 0x400) / 4)))
  | node (h₁ : 0x2000 ≤ a) (h₂ : a < 0x4000) :
      s.Names a (.node (BitVec.ofNat 9 ((a - 0x2000) / 16)) (BitVec.ofNat 2 (a / 4)))
  | code (h₁ : 0x4000 ≤ a) (h₂ : a < 0x8000) :
      s.Names a (.code (BitVec.ofNat 8 ((a - 0x4000) / 64)) (BitVec.ofNat 4 (a / 4)))
  | ibuf (h₁ : 0x01000000 ≤ a) (h₂ : a < 0x02000000) (h₃ : a - 0x01000000 < s.ibufSize.toNat) :
      s.Names a (.buffer a)
  | pbuf (h₁ : 0x02000000 ≤ a) (h₂ : a < 0x03000000) (h₃ : a - 0x02000000 < s.pbufSize.toNat) :
      s.Names a (.buffer a)
  | dbuf (h₁ : 0x03000000 ≤ a) (h₂ : a < 0x04000000) (h₃ : a - 0x03000000 < s.dbufSize.toNat) :
      s.Names a (.buffer a)
  | reserved (h : (0x40 ≤ a ∧ a < 0x400) ∨ (0x800 ≤ a ∧ a < 0x2000) ∨ (0x8000 ≤ a ∧ a < 0x01000000)
      ∨ 0x04000000 ≤ a) : s.Names a .unmapped
  | beyond (h : (0x01000000 ≤ a ∧ a < 0x02000000 ∧ s.ibufSize.toNat ≤ a - 0x01000000)
      ∨ (0x02000000 ≤ a ∧ a < 0x03000000 ∧ s.pbufSize.toNat ≤ a - 0x02000000)
      ∨ (0x03000000 ≤ a ∧ a < 0x04000000 ∧ s.dbufSize.toNat ≤ a - 0x03000000)) : s.Names a .unmapped

theorem bufferLoc_cases (base : Nat) (size : Word) (a : Nat) :
    (a - base < size.toNat ∧ bufferLoc base size a = .buffer a)
      ∨ (size.toNat ≤ a - base ∧ bufferLoc base size a = .unmapped) := by
  by_cases h : a - base < size.toNat
  · exact .inl ⟨h, if_pos h⟩
  · exact .inr ⟨Nat.le_of_not_lt h, if_neg h⟩

/-- The map gives every offset what its row names. -/
theorem State.names_locate (s : State) (offset : Word) : s.Names offset.toNat (s.locate offset) := by
  have hi := bufferLoc_cases Config.ibufBase s.ibufSize offset.toNat
  have hp := bufferLoc_cases Config.pbufBase s.pbufSize offset.toNat
  have hd := bufferLoc_cases Config.dbufBase s.dbufSize offset.toNat
  simp only [State.locate]
  split_ifs with h₁ h₂ h₃ h₄ h₅ h₆ h₇ h₈ h₉ h₁₀
  all_goals
    simp only [Config.histBase, Config.nodeBase, Config.ctabBase, Config.ibufBase, Config.pbufBase,
      Config.dbufBase, Config.mapEnd] at *
  · exact .register h₁
  · exact .reserved (by omega)
  · exact .hist (by omega) h₃
  · exact .reserved (by omega)
  · exact .node (by omega) h₅
  · exact .code (by omega) h₆
  · exact .reserved (by omega)
  · rcases hi with ⟨h, e⟩ | ⟨h, e⟩ <;> rw [e]
    · exact .ibuf (by omega) h₈ h
    · exact .beyond (by omega)
  · rcases hp with ⟨h, e⟩ | ⟨h, e⟩ <;> rw [e]
    · exact .pbuf (by omega) h₉ h
    · exact .beyond (by omega)
  · rcases hd with ⟨h, e⟩ | ⟨h, e⟩ <;> rw [e]
    · exact .dbuf (by omega) h₁₀ h
    · exact .beyond (by omega)
  · exact .reserved (by omega)

/-- HIST[x] is the word at 0x400 + 4x (R67). -/
theorem State.locate_hist (s : State) (x : Byte) {offset : Word}
    (h : offset.toNat = 0x400 + 4 * x.toNat) : s.locate offset = .hist x := by
  have hx := x.isLt
  have hn := s.names_locate offset
  generalize s.locate offset = l at hn ⊢
  cases hn with
  | hist =>
    rw [Loc.hist.injEq, ← BitVec.toNat_inj, BitVec.toNat_ofNat]
    omega
  | _ => omega

/-- Word w of record n is at 0x2000 + 16n + 4w (R68). -/
theorem State.locate_node (s : State) (n : NodeIdx) (w : BitVec 2) {offset : Word}
    (h : offset.toNat = 0x2000 + 16 * n.toNat + 4 * w.toNat) : s.locate offset = .node n w := by
  have hn := n.isLt
  have hw := w.isLt
  have hl := s.names_locate offset
  generalize s.locate offset = l at hl ⊢
  cases hl with
  | node =>
    rw [Loc.node.injEq, ← BitVec.toNat_inj, ← BitVec.toNat_inj, BitVec.toNat_ofNat, BitVec.toNat_ofNat]
    omega
  | _ => omega

/-- Word w of entry x is at 0x4000 + 64x + 4w (R69). -/
theorem State.locate_code (s : State) (x : Byte) (w : BitVec 4) {offset : Word}
    (h : offset.toNat = 0x4000 + 64 * x.toNat + 4 * w.toNat) : s.locate offset = .code x w := by
  have hx := x.isLt
  have hw := w.isLt
  have hl := s.names_locate offset
  generalize s.locate offset = l at hl ⊢
  cases hl with
  | code =>
    rw [Loc.code.injEq, ← BitVec.toNat_inj, ← BitVec.toNat_inj, BitVec.toNat_ofNat, BitVec.toNat_ofNat]
    omega
  | _ => omega

/-- Every byte of a buffer is mapped (R8, R70): no buffer is larger than its aperture. -/
theorem State.locate_of_inBuffers {s : State} {offset : Word} (hs : s.sizesOk = true)
    (h : s.inBuffers offset.toNat = true) : s.locate offset = .buffer offset.toNat := by
  simp only [State.sizesOk_iff, sizeOk_iff] at hs
  simp only [State.inBuffers_iff, Config.ibufBase, Config.pbufBase, Config.dbufBase] at h
  have hn := s.names_locate offset
  generalize s.locate offset = l at hn ⊢
  cases hn with
  | ibuf | pbuf | dbuf => rfl
  | register | hist | node | code | reserved | beyond => omega

/-! ### Bus errors (20_memory R61 to R66, R72, R74) -/

/-- RD8 and WR8 are admitted at the buffers of an idle block alone (R61, R63). -/
theorem State.refused8_iff (s : State) (offset : Word) :
    s.refused8 offset.toNat ↔ s.pending ≠ none ∨ ¬ ∃ a, s.locate offset = .buffer a := by
  by_cases hp : s.pending = none
  · simp only [State.refused8, hp, ne_eq, not_true_eq_false, or_false, false_or]
    have hn := s.names_locate offset
    generalize s.locate offset = l at hn ⊢
    cases hn with
    | ibuf | pbuf | dbuf =>
      simp only [Loc.buffer.injEq, exists_eq', not_true_eq_false, iff_false]
      omega
    | register | hist | node | code | reserved | beyond =>
      simp only [reduceCtorEq, exists_false, not_false_eq_true, iff_true]
      omega
  · simp only [State.refused8, hp, ne_eq, not_false_eq_true, or_true, true_or]

theorem State.rd8Response_error_iff (s : State) (offset : Word) :
    s.rd8Response offset = .error ↔ s.refused8 offset.toNat := by
  rw [s.refused8_iff, ← s.busy_iff, State.rd8Response]
  cases s.busy with
  | true => simp
  | false => cases s.locate offset <;> simp

theorem State.wr8Effect_none_iff (s : State) (offset : Word) (v : Byte) :
    s.wr8Effect offset v = none ↔ s.refused8 offset.toNat := by
  rw [s.refused8_iff, ← s.busy_iff, State.wr8Effect]
  cases s.busy with
  | true => simp
  | false => cases s.locate offset <;> simp

/-- The registers that a write reaches while a command is pending are those of word offsets 2 to 4 (R20,
R74). -/
theorem Reg.ofIndex_status_int_iff (k : Nat) :
    (Reg.ofIndex k = .status ∨ Reg.ofIndex k = .intStatus ∨ Reg.ofIndex k = .intEnable)
      ↔ k = 2 ∨ k = 3 ∨ k = 4 := by
  unfold Reg.ofIndex
  split
  case h_16 => simp_all
  all_goals simp

/-- A register write is refused at a read-only register (R65), and while a command is pending at every
register but STATUS, INT_STATUS and INT_ENABLE (R74). -/
theorem State.writeReg_none_iff (s : State) (v : Word) (r : Reg) :
    s.writeReg v r = none ↔ r.writable = false
      ∨ (s.pending ≠ none ∧ ¬ (r = .status ∨ r = .intStatus ∨ r = .intEnable)) := by
  rw [← s.busy_iff]
  cases r <;> simp [State.writeReg, Reg.writable]

theorem aligned_iff (offset : Word) : aligned offset = true ↔ offset.toNat % 4 = 0 := by
  simp [aligned]

/-- RD32 is refused exactly as R63 says, location by location. -/
theorem State.rd32Response_error_iff (s : State) (offset : Word) :
    s.rd32Response offset = .error ↔ s.refused32 false offset.toNat := by
  by_cases ha : offset.toNat % 4 = 0
  · have hal : aligned offset = true := (aligned_iff _).2 ha
    simp only [State.rd32Response, hal, if_true, State.refused32, ha, ← s.busy_iff]
    have hn := s.names_locate offset
    generalize s.locate offset = l at hn ⊢
    cases hn with
    | _ => cases s.busy <;> simp <;> omega
  · have hal : aligned offset = false := by simp [aligned, ha]
    simp [State.rd32Response, hal, State.refused32, ha]

/-- WR32 is refused exactly as R63 says; at the registers by the register's own rule. -/
theorem State.wr32Effect_none_iff (s : State) (offset v : Word) :
    s.wr32Effect offset v = none ↔ s.refused32 true offset.toNat := by
  by_cases ha : offset.toNat % 4 = 0
  · have hal : aligned offset = true := (aligned_iff _).2 ha
    simp only [State.wr32Effect, hal, if_true, State.refused32, ha, ← s.busy_iff]
    have hn := s.names_locate offset
    generalize s.locate offset = l at hn ⊢
    cases hn with
    | register hr =>
      rw [s.writeReg_none_iff, Reg.ofIndex_status_int_iff, ← s.busy_iff]
      cases s.busy <;> cases (Reg.ofIndex (offset.toNat / 4)).writable <;> simp <;> omega
    | _ => cases s.busy <;> simp <;> omega
  · have hal : aligned offset = false := by simp [aligned, ha]
    simp [State.wr32Effect, hal, State.refused32, ha]

theorem exec_rd8 (s : State) (offset : Word) :
    exec (.rd8 offset) s = .next { s with responses := s.rd8Response offset :: s.responses } := rfl

theorem exec_rd32 (s : State) (offset : Word) :
    exec (.rd32 offset) s = .next { s with responses := s.rd32Response offset :: s.responses } := rfl

theorem exec_wr8_none {s : State} {offset : Word} {v : Byte} (h : s.wr8Effect offset v = none) :
    exec (.wr8 offset v) s = .next { s with responses := .error :: s.responses } := by
  simp [exec, execWr8, h]

theorem exec_wr8_some {s t : State} {offset : Word} {v : Byte} (h : s.wr8Effect offset v = some t) :
    exec (.wr8 offset v) s = .next { t with responses := .okay :: s.responses } := by
  have hr : t.responses = s.responses := by rw [wr8Effect_frame h]
  simp [exec, execWr8, h, hr]

theorem exec_wr32_none {s : State} {offset v : Word} (h : s.wr32Effect offset v = none) :
    exec (.wr32 offset v) s = .next { s with responses := .error :: s.responses } := by
  simp [exec, execWr32, h]

theorem exec_wr32_some {s t : State} {offset v : Word} (h : s.wr32Effect offset v = some t) :
    exec (.wr32 offset v) s = .next { t with responses := .okay :: s.responses } := by
  have hr : t.responses = s.responses := by rw [wr32Effect_frame h]
  simp [exec, execWr32, h, hr]

/-- A bus error changes nothing but the responses (R63). -/
theorem exec_of_busError {i : Instr} {s : State} (h : s.busError i) :
    exec i s = .next { s with responses := .error :: s.responses } := by
  cases i with
  | rd8 a => rw [exec_rd8, (s.rd8Response_error_iff a).2 h]
  | rd32 a => rw [exec_rd32, (s.rd32Response_error_iff a).2 h]
  | wr8 a v => exact exec_wr8_none ((s.wr8Effect_none_iff a v).2 h)
  | wr32 a v => exact exec_wr32_none ((s.wr32Effect_none_iff a v).2 h)
  | _ => exact h.elim

/-- A transaction that R63 does not name is answered, and not with ERROR. -/
theorem exec_of_not_busError {i : Instr} {s : State} (hi : i.isCommand = false) (h : ¬ s.busError i) :
    ∃ t r, exec i s = .next t ∧ t.responses = r :: s.responses ∧ r ≠ .error := by
  cases i with
  | rd8 a => exact ⟨_, _, exec_rd8 s a, rfl, mt (s.rd8Response_error_iff a).1 h⟩
  | rd32 a => exact ⟨_, _, exec_rd32 s a, rfl, mt (s.rd32Response_error_iff a).1 h⟩
  | wr8 a v =>
    obtain ⟨t, ht⟩ := Option.ne_none_iff_exists'.1 (mt (s.wr8Effect_none_iff a v).1 h)
    exact ⟨_, .okay, exec_wr8_some ht, rfl, by simp⟩
  | wr32 a v =>
    obtain ⟨t, ht⟩ := Option.ne_none_iff_exists'.1 (mt (s.wr32Effect_none_iff a v).1 h)
    exact ⟨_, .okay, exec_wr32_some ht, rfl, by simp⟩
  | _ => simp [Instr.isCommand] at hi

/-- Settles O51: each of the four transactions answers ERROR under exactly the conditions of R63. -/
theorem busErrorsAreExactlyRefused : Obligations.BusErrorsAreExactlyRefused :=
  fun _ _ hi => ⟨exec_of_busError, exec_of_not_busError hi⟩

/-! ### While a command is pending (20_memory R74, 45_control R210) -/

/-- Settles O13: the one write that takes effect is that of STATUS, INT_STATUS or INT_ENABLE. -/
theorem busyBlockKeepsState : Obligations.BusyBlockKeepsState := by
  intro i s t hi hp h
  have hb : s.busy ≠ false := mt s.busy_false_iff.1 hp
  rcases exec_transaction hi s with ⟨r, he⟩ | ⟨_, _, u, _, hu, _⟩ | ⟨_, _, u, _, hu, he⟩
  · obtain rfl := Host.Outcome.next.inj (h.symm.trans he)
    rfl
  · exact absurd (State.wr8Effect_cases hu).1 hb
  · obtain rfl := Host.Outcome.next.inj (h.symm.trans he)
    obtain ⟨_, ⟨r, _, hr⟩ | ⟨hf, _⟩ | ⟨hf, _⟩⟩ := State.wr32Effect_cases hu
    · rcases State.writeReg_cases hr with ⟨_, rfl⟩ | ⟨_, rfl⟩ | ⟨_, rfl⟩ | ⟨hf, _⟩
      · rfl
      · rfl
      · rfl
      · exact absurd hf hb
    · exact absurd hf hb
    · exact absurd hf hb

/-- While a command is pending, a 32-bit transaction anywhere but at the registers is a bus error (R74). -/
theorem State.refused32_of_pending {s : State} (hp : s.pending ≠ none) (write : Bool) {a : Nat}
    (h : 0x40 ≤ a) : s.refused32 write a := by
  iterate 10 right
  exact ⟨hp, by omega, by omega⟩

/-! ### The windows onto the tables (20_memory R67 to R69) -/

theorem exec_rd32_hist {s : State} {offset : Word} {x : Byte} (hp : s.pending = none)
    (h : offset.toNat = 0x400 + 4 * x.toNat) : exec (.rd32 offset) s =
      .next { s with responses := .data32 (histAt s.hist x) :: s.responses } := by
  have ha : aligned offset = true := (aligned_iff _).2 (by omega)
  simp [exec_rd32, State.rd32Response, ha, s.locate_hist x h, s.busy_false_iff.2 hp]

theorem exec_wr32_hist {s : State} {offset : Word} {x : Byte} (v : Word) (hp : s.pending = none)
    (h : offset.toNat = 0x400 + 4 * x.toNat) : exec (.wr32 offset v) s =
      .next { s with hist := histSet s.hist x v, responses := .okay :: s.responses } := by
  have ha : aligned offset = true := (aligned_iff _).2 (by omega)
  refine exec_wr32_some (t := { s with hist := histSet s.hist x v }) ?_
  simp [State.wr32Effect, ha, s.locate_hist x h, s.busy_false_iff.2 hp]

theorem exec_rd32_node {s : State} {offset : Word} {n : NodeIdx} (w : BitVec 2) (hp : s.pending = none)
    (h : offset.toNat = 0x2000 + 16 * n.toNat + 4 * w.toNat) : exec (.rd32 offset) s =
      .next { s with responses := .data32 ((nodeAt s.node n).word w) :: s.responses } := by
  have ha : aligned offset = true := (aligned_iff _).2 (by omega)
  simp [exec_rd32, State.rd32Response, ha, s.locate_node n w h, s.busy_false_iff.2 hp]

theorem exec_rd32_code {s : State} {offset : Word} {x : Byte} (w : BitVec 4) (hp : s.pending = none)
    (h : offset.toNat = 0x4000 + 64 * x.toNat + 4 * w.toNat) : exec (.rd32 offset) s =
      .next { s with responses := .data32 ((codeAt s.ctab x).word w) :: s.responses } := by
  have ha : aligned offset = true := (aligned_iff _).2 (by omega)
  simp [exec_rd32, State.rd32Response, ha, s.locate_code x w h, s.busy_false_iff.2 hp]

/-- Settles O55: HIST[x] while the block is idle, bus errors while it is not. -/
theorem histWindow : Obligations.HistWindow := by
  intro s x v offset ho
  have hx := x.isLt
  have h : offset.toNat = 0x400 + 4 * x.toNat := by
    rw [ho, BitVec.toNat_ofNat]
    omega
  refine ⟨fun hp => ⟨exec_rd32_hist hp h, _, exec_wr32_hist v hp h, histAt_histSet_same _ _ _,
    fun y hy => histAt_histSet_other _ v hy, rfl⟩, fun hp => ⟨exec_of_busError ?_, exec_of_busError ?_⟩⟩
  · exact State.refused32_of_pending hp false (by omega)
  · exact State.refused32_of_pending hp true (by omega)

/-- The fields in the words of a record after the first, each word's other bits 0 (R68). -/
theorem NodeRecord.word_fields (r : NodeRecord) :
    ((r.word 1).extractLsb' 0 8 = r.weight.extractLsb' 32 8 ∧ (r.word 1).extractLsb' 8 24 = 0)
    ∧ ((r.word 2).extractLsb' 0 9 = r.left ∧ (r.word 2).extractLsb' 9 7 = 0
      ∧ (r.word 2).extractLsb' 16 9 = r.right ∧ (r.word 2).extractLsb' 25 7 = 0)
    ∧ ((r.word 3).getLsbD 0 = r.valid ∧ (r.word 3).getLsbD 1 = r.leaf
      ∧ (r.word 3).extractLsb' 2 6 = 0 ∧ (r.word 3).extractLsb' 8 8 = r.symbol
      ∧ (r.word 3).extractLsb' 16 16 = 0) := by
  have h₁ : r.word 1 = 0#24 ++ r.weight.extractLsb' 32 8 := rfl
  have h₂ : r.word 2 = 0#7 ++ r.right ++ 0#7 ++ r.left := rfl
  have h₃ : r.word 3 = 0#16 ++ r.symbol ++ 0#6 ++ BitVec.ofBool r.leaf ++ BitVec.ofBool r.valid := rfl
  refine ⟨?_, ?_, ?_⟩
  · rw [h₁]
    exact ⟨extract_low _ _, extract_high _ _⟩
  · rw [h₂]
    simp (disch := omega) only [BitVec.extractLsb'_append_eq_of_le]
    exact ⟨extract_low _ _, extract_low _ _, extract_low _ _, BitVec.extractLsb'_eq_self⟩
  · rw [h₃]
    simp (disch := omega) only [BitVec.extractLsb'_append_eq_of_le, BitVec.getLsbD_append]
    exact ⟨by simp, by simp, extract_low _ _, extract_low _ _, BitVec.extractLsb'_eq_self⟩

/-- Settles O56: the four words are those of the record's fields. -/
theorem nodeWindow : Obligations.NodeWindow := by
  intro s n hp
  have hoff : ∀ w : BitVec 2, (BitVec.ofNat 32 (0x2000 + 16 * n.toNat + 4 * w.toNat)).toNat =
      0x2000 + 16 * n.toNat + 4 * w.toNat := fun w => by
    have hn := n.isLt
    have hw := w.isLt
    rw [BitVec.toNat_ofNat]
    omega
  obtain ⟨⟨hweight, h₁⟩, ⟨hleft, h₂, hright, h₂'⟩, h₃⟩ := (nodeAt s.node n).word_fields
  exact ⟨_, _, _, _, exec_rd32_node 0 hp (hoff 0), exec_rd32_node 1 hp (hoff 1),
    exec_rd32_node 2 hp (hoff 2), exec_rd32_node 3 hp (hoff 3), rfl, hweight, h₁, hleft, h₂, hright, h₂',
    h₃⟩

/-- Word 0 holds VALID in bit 31 and LEN in bits 7:0 (R69). -/
theorem CodeEntry.word_zero (e : CodeEntry) :
    (e.word 0).extractLsb' 0 8 = e.len ∧ (e.word 0).extractLsb' 8 23 = 0
      ∧ (e.word 0).getLsbD 31 = e.valid := by
  have h : e.word 0 = BitVec.ofBool e.valid ++ 0#23 ++ e.len := rfl
  rw [h]
  simp (disch := omega) only [BitVec.extractLsb'_append_eq_of_le, BitVec.getLsbD_append]
  exact ⟨extract_low _ _, extract_low _ _, by simp⟩

/-- A number of n bits spelled by the n bits from position a on has bit a + u of the string in its bit
n − 1 − u. -/
theorem msbFirst_bitsFrom_bit (bits : List Bool) (a : Nat) {n u : Nat} (h : u < n) :
    (BitVec.ofNat n (msbFirst (bitsFrom bits a n))).getLsbD (n - 1 - u) = bits.getD (a + u) false := by
  have h₁ : n - 1 - u < n := by omega
  have h₂ : n - 1 - (n - 1 - u) = u := by omega
  rw [BitVec.getLsbD_ofNat, testBit_msbFirst _ _ (by rwa [bitsFrom_length])]
  simp [h₁, h₂, bitsFrom]

/-- Bit i of the code is bit 31 − i mod 32 of word 1 + i div 32, and the bits after it are 0 (R69). -/
theorem CodeEntry.word_bit (e : CodeEntry) {i : Nat} (hi : i < 256) :
    (e.word (BitVec.ofNat 4 (1 + i / 32))).getLsbD (31 - i % 32) = e.bits.getD i false := by
  have hk : (BitVec.ofNat 4 (1 + i / 32)).toNat = 1 + i / 32 := by
    rw [BitVec.toNat_ofNat]
    omega
  have hword : e.word (BitVec.ofNat 4 (1 + i / 32)) =
      BitVec.ofNat 32 (msbFirst (bitsFrom e.bits (32 * (1 + i / 32 - 1)) 32)) := by
    simp only [CodeEntry.word, hk]
    rw [if_neg (by omega), if_pos (by omega)]
  have hi' : 32 * (1 + i / 32 - 1) + i % 32 = i := by omega
  rw [hword, msbFirst_bitsFrom_bit _ _ (Nat.mod_lt i (by decide)), hi']

/-- The words after the code bits are 0 (R69). -/
theorem CodeEntry.word_eq_zero (e : CodeEntry) {w : BitVec 4} (h : 9 ≤ w.toNat) : e.word w = 0 := by
  have h₀ : ¬ w.toNat = 0 := by omega
  have h₈ : ¬ w.toNat ≤ 8 := by omega
  simp only [CodeEntry.word, h₀, h₈, if_false]

/-- Settles O57: word k of the window is word k of the entry. -/
theorem codeWindow : Obligations.CodeWindow := by
  intro s x hp hlen
  have hx := x.isLt
  obtain ⟨hLen, hzero, hvalid⟩ := (codeAt s.ctab x).word_zero
  have hk : ∀ k, k < 16 → (BitVec.ofNat 4 k).toNat = k := fun k h => by
    rw [BitVec.toNat_ofNat, Nat.mod_eq_of_lt h]
  refine ⟨fun k => (codeAt s.ctab x).word (BitVec.ofNat 4 k), fun k h => exec_rd32_code _ hp ?_, ?_,
    hzero, hvalid, fun i hi => CodeEntry.word_bit _ hi, fun k h₉ h₁₆ => CodeEntry.word_eq_zero _ ?_⟩
  · rw [BitVec.toNat_ofNat, hk k h]
    omega
  · exact (congrArg BitVec.toNat hLen).trans (by rw [CodeEntry.len, BitVec.toNat_ofNat]; omega)
  · rwa [hk k h₁₆]

/-! ### The buffer windows (20_memory R70, R71) -/

theorem exec_rd8_buffer {s : State} {offset : Word} (hs : s.sizesOk = true) (hp : s.pending = none)
    (hin : s.inBuffers offset.toNat = true) : exec (.rd8 offset) s =
      .next { s with responses := .data8 (s.readByte offset.toNat) :: s.responses } := by
  simp [exec_rd8, State.rd8Response, State.locate_of_inBuffers hs hin, s.busy_false_iff.2 hp]

theorem exec_rd32_buffer {s : State} {offset : Word} (hs : s.sizesOk = true) (hp : s.pending = none)
    (hin : s.inBuffers offset.toNat = true) (ha : offset.toNat % 4 = 0) : exec (.rd32 offset) s =
      .next { s with responses := .data32 (s.readWord offset.toNat) :: s.responses } := by
  simp [exec_rd32, State.rd32Response, (aligned_iff _).2 ha, State.locate_of_inBuffers hs hin,
    s.busy_false_iff.2 hp]

theorem exec_wr8_buffer {s : State} {offset : Word} (v : Byte) (hs : s.sizesOk = true)
    (hp : s.pending = none) (hin : s.inBuffers offset.toNat = true) : exec (.wr8 offset v) s =
      .next { s.writeBytes offset.toNat [v] with responses := .okay :: s.responses } :=
  exec_wr8_some (by
    simp [State.wr8Effect, State.locate_of_inBuffers hs hin, s.busy_false_iff.2 hp])

theorem exec_wr32_buffer {s : State} {offset : Word} (v : Word) (hs : s.sizesOk = true)
    (hp : s.pending = none) (hin : s.inBuffers offset.toNat = true) (ha : offset.toNat % 4 = 0) :
    exec (.wr32 offset v) s =
      .next { s.writeBytes offset.toNat (bytesLE v) with responses := .okay :: s.responses } :=
  exec_wr32_some (by
    simp [State.wr32Effect, (aligned_iff _).2 ha, State.locate_of_inBuffers hs hin,
      s.busy_false_iff.2 hp])

/-- A word read holds its four bytes, least significant first (R71). -/
theorem State.readWord_bytes (s : State) (a : Nat) :
    (s.readWord a).extractLsb' 0 8 = s.readByte a
      ∧ (s.readWord a).extractLsb' 8 8 = s.readByte (a + 1)
      ∧ (s.readWord a).extractLsb' 16 8 = s.readByte (a + 2)
      ∧ (s.readWord a).extractLsb' 24 8 = s.readByte (a + 3) := by
  simp (disch := omega) only [State.readWord, BitVec.extractLsb'_append_eq_of_le]
  exact ⟨extract_low _ _, extract_low _ _, extract_low _ _, BitVec.extractLsb'_eq_self⟩

/-- The offset of byte k of a buffer fits 32 bits and lies in the buffers, and each base is 4-aligned (R8,
R62, R70). -/
theorem State.bufferOffset_spec {s : State} {base k : Nat} {size : Word} (hs : s.sizesOk = true)
    (hb : (base, size) ∈ [(Config.ibufBase, s.ibufSize), (Config.pbufBase, s.pbufSize),
      (Config.dbufBase, s.dbufSize)]) (hk : k < size.toNat) :
    (BitVec.ofNat 32 (base + k)).toNat = base + k ∧ s.inBuffers (base + k) = true ∧ base % 4 = 0 := by
  simp only [State.sizesOk_iff, sizeOk_iff] at hs
  rw [BitVec.toNat_ofNat, s.inBuffers_iff]
  simp only [List.mem_cons, Prod.mk.injEq, List.not_mem_nil, or_false] at hb
  rcases hb with ⟨rfl, rfl⟩ | ⟨rfl, rfl⟩ | ⟨rfl, rfl⟩
  all_goals
    simp only [Config.ibufBase, Config.pbufBase, Config.dbufBase, Nat.reduceMod, and_true]
    omega

/-- Settles O58: each transaction reaches the bytes at its own offset, by the memory's laws. -/
theorem bufferWindows : Obligations.BufferWindows := by
  intro s base size offset k hs hp hb hk ho
  obtain ⟨hoff, hin, hbase⟩ := State.bufferOffset_spec hs hb hk
  rw [← ho] at hoff
  rw [← hoff] at hin ⊢
  refine ⟨exec_rd8_buffer hs hp hin, fun v => ⟨_, exec_wr8_buffer v hs hp hin, ?_, ?_, rfl⟩,
    fun hk4 => ?_⟩
  · exact s.readByte_writeBytes_inside _ 0 [v] (by simp)
  · intro a ha
    exact s.readByte_writeBytes_outside [v] (by simp; omega)
  · have ha : offset.toNat % 4 = 0 := by omega
    refine ⟨⟨_, exec_rd32_buffer hs hp hin ha, s.readWord_bytes _⟩,
      fun v => ⟨_, exec_wr32_buffer v hs hp hin ha, ?_, ?_, ?_, ?_, ?_, rfl⟩⟩
    · exact s.readByte_writeBytes_inside _ 0 (bytesLE v) (by simp [bytesLE])
    · exact s.readByte_writeBytes_inside _ 1 (bytesLE v) (by simp [bytesLE])
    · exact s.readByte_writeBytes_inside _ 2 (bytesLE v) (by simp [bytesLE])
    · exact s.readByte_writeBytes_inside _ 3 (bytesLE v) (by simp [bytesLE])
    · intro a ha
      exact s.readByte_writeBytes_outside (bytesLE v) (by simpa [bytesLE] using ha)

end Sys2Proof.Machine

/-! PROOFS. The opcode map and the two encoded spaces: encoding and decoding undo each other; the obligations
of 30_encoding. -/

namespace Sys2Proof.Machine

/-! ### The opcode map (30_encoding R91, R92) -/

/-- OP values 8 to 15 are the reserved row with three free bits (R92). -/
theorem decodeOp_of_ge {op : BitVec 4} (h : 8 ≤ op.toNat) :
    decodeOp op = .illegalOp8F (op.extractLsb' 0 3) := by
  unfold decodeOp
  split
  case h_9 => rfl
  all_goals omega

theorem decodeOp_one_append (o : BitVec 3) : decodeOp (1#1 ++ o) = .illegalOp8F o := by
  have h : 8 ≤ (1#1 ++ o).toNat := by revert o; decide
  rw [decodeOp_of_ge h, extract_low]

theorem decodeOp_wellFormed (op : BitVec 4) : (decodeOp op).wellFormed = true := by
  unfold decodeOp
  split <;> rfl

/-- Each of the sixteen OP values is the only one with its instruction (R91, R92). -/
theorem encode_decodeOp : ∀ op : BitVec 4, encode (decodeOp op) = .command (0#28 ++ op) := by decide

/-! ### Command words (30_encoding R90, R92) -/

theorem decodeCommand_of_rsvd_zero {w : Word} (h : rsvdField w = 0) :
    decodeCommand w = decodeOp (opField w) := if_pos h

theorem decodeCommand_of_rsvd_ne_zero {w : Word} (h : rsvdField w ≠ 0) :
    decodeCommand w = .illegalRsvd (rsvdField w) (opField w) := if_neg h

/-- The word of reserved bits 0 and OP `op` is the opcode map's (R91). -/
theorem decodeCommand_zero_append (op : BitVec 4) : decodeCommand (0#28 ++ op) = decodeOp op := by
  obtain ⟨hop, hrsvd⟩ := command_fields 0#28 op
  rw [decodeCommand_of_rsvd_zero hrsvd, hop]

/-- A nonzero reserved field decides before OP is looked at (R92). -/
theorem decodeCommand_append_of_ne_zero {r : BitVec 28} (hr : r ≠ 0) (p : BitVec 4) :
    decodeCommand (r ++ p) = .illegalRsvd r p := by
  obtain ⟨hop, hrsvd⟩ := command_fields r p
  rw [decodeCommand_of_rsvd_ne_zero (by rwa [hrsvd]), hop, hrsvd]

theorem decodeCommand_illegalOp8F (o : BitVec 3) :
    decodeCommand (0#28 ++ (1#1 ++ o)) = .illegalOp8F o :=
  (decodeCommand_zero_append _).trans (decodeOp_one_append o)

theorem decodeCommand_wellFormed (w : Word) : (decodeCommand w).wellFormed = true := by
  by_cases h : rsvdField w = 0
  · rw [decodeCommand_of_rsvd_zero h]
    exact decodeOp_wellFormed _
  · rw [decodeCommand_of_rsvd_ne_zero h]
    exact bne_iff_ne.2 h

/-- A word is the encoding of the command it decodes to (R90 to R92). -/
theorem encode_decodeCommand (w : Word) : encode (decodeCommand w) = .command w := by
  by_cases h : rsvdField w = 0#28
  · rw [decodeCommand_of_rsvd_zero h, encode_decodeOp, ← h, command_word]
  · rw [decodeCommand_of_rsvd_ne_zero h]
    exact congrArg Encoding.command (command_word w)

/-- Settles O3: the constants are evaluated, and the rows with operands have equations of their own. -/
theorem opcodeMapWords : Obligations.OpcodeMapWords :=
  ⟨rfl, rfl, rfl, rfl, rfl, rfl, rfl, rfl, rfl, decodeCommand_illegalOp8F, rfl,
    fun _ _ => rfl, fun _ _ => rfl, fun _ _ => rfl, fun _ _ => rfl⟩

/-- Settles O2: the word is its two fields, and RSVD zero or not fixes which of them decides. -/
theorem everyWordIsOneCommand : Obligations.EveryWordIsOneCommand := by
  intro w
  refine ⟨decodeCommand_wellFormed w, Laws.Space.decodeCommand_isCommand w, encode_decodeCommand w,
    decodeCommand_of_rsvd_ne_zero, fun hr hop => ?_, fun hr hop => ?_⟩
  · have hop : opField w = 7 := hop
    rw [decodeCommand_of_rsvd_zero hr, hop]
    rfl
  · -- OP and its low three bits are read from the same place of the word
    have hlow : (opField w).extractLsb' 0 3 = w.extractLsb' 0 3 :=
      BitVec.extractLsb'_extractLsb'_of_le (by decide)
    rw [← hlow, decodeCommand_of_rsvd_zero hr]
    exact decodeOp_of_ge hop

/-! ### Both encoded spaces (30_encoding R95) -/

/-- A WR8 gives its byte back from data bits 7:0 (R95; log entry 5). -/
theorem decode_encode_wr8 (offset : Word) (v : Byte) :
    decode (encode (.wr8 offset v)) = .wr8 offset v := by
  have hv : (v.setWidth 32).extractLsb' 0 8 = v := by
    rw [BitVec.extractLsb'_setWidth_of_le (by decide), BitVec.extractLsb'_eq_self]
  exact congrArg (Instr.wr8 offset) hv

/-- Settles O1, one case per constructor: only the two rows with free bits in the command word and the byte
of a WR8 need more than evaluation. -/
theorem decodeOfEncodeIsIdentity : Obligations.DecodeOfEncodeIsIdentity := by
  intro i hi
  cases i with
  | illegalOp8F o => exact decodeCommand_illegalOp8F o
  | illegalRsvd r p => exact decodeCommand_append_of_ne_zero (bne_iff_ne.1 hi) p
  | wr8 offset v => exact decode_encode_wr8 offset v
  | nop | count | build | gen | pack | unpack | clr | illegalOp7 => rfl
  | rd8 _ | rd32 _ | wr32 _ _ => rfl

end Sys2Proof.Machine

/-! PROOFS. COUNT: what it writes, and that only the number of each byte in the input matters; the obligations
of 40_histogram. -/

namespace Sys2Proof.Machine

/-! ### The two completions of COUNT (40_histogram R120) -/

/-- The state with COUNT's writes: the histogram of the input and the number of its nonzero entries (R120). -/
def State.counted (s : State) : State :=
  { s with
    hist := histogram (s.inputBytes s.inLen.toNat)
    nsym := BitVec.ofNat 9 (distinctSymbols (histogram (s.inputBytes s.inLen.toNat))) }

@[simp] theorem State.counted_hist (s : State) : s.counted.hist = histogram (s.inputBytes s.inLen.toNat) := rfl

@[simp] theorem State.counted_nsym (s : State) :
    s.counted.nsym = BitVec.ofNat 9 (distinctSymbols s.counted.hist) := rfl

/-- COUNT completes with the result of its rule. -/
theorem exec_count (s : State) : exec .count s = .next (s.complete 1 (countResult s)) := rfl

theorem exec_count_beyond_buffer {s : State} (h : s.ibufSize.toNat < s.inLen.toNat) :
    exec .count s = .next (s.failed 1 .inputUnavailable 1 s.inLen) := by
  have hr : countResult s = .error (.inputBeyondBuffer s.inLen) := if_pos h
  rw [exec_count, hr]
  rfl

theorem exec_count_within_buffer {s : State} (h : s.inLen.toNat ≤ s.ibufSize.toNat) :
    exec .count s = .next (s.counted.succeeded 1) := by
  have hr : countResult s = .ok s.counted := if_neg (Nat.not_lt.2 h)
  rw [exec_count, hr, State.complete_ok]

/-! ### The registers hold the counts (40_histogram R120, R122) -/

/-- HIST loses no occurrence of a sequence whose length fits a word. -/
theorem histAt_histogram_toNat {bytes : List Byte} (h : bytes.length < 2 ^ 32) (x : Byte) :
    (histAt (histogram bytes) x).toNat = bytes.count x := by
  rw [histAt_histogram, BitVec.toNat_ofNat, Nat.mod_eq_of_lt (List.count_le_length.trans_lt h)]

theorem inputBytes_count (s : State) (n : Nat) (x : Byte) :
    (s.inputBytes n).count x = ((List.range n).filter fun k => s.ibufByte k == x).length := by
  rw [State.inputBytes, List.count_eq_countP, List.countP_map, List.countP_eq_length_filter]
  rfl

theorem inputBytes_length (s : State) (n : Nat) : (s.inputBytes n).length = n := by
  simp [State.inputBytes]

/-- NSYM is wide enough for the number of counted symbols. -/
theorem counted_nsym_toNat (s : State) : s.counted.nsym.toNat = symbolCount s.counted.hist := by
  have hle := distinctSymbols_le s.counted.hist
  rw [State.counted_nsym, BitVec.toNat_ofNat, Nat.mod_eq_of_lt (by omega), distinctSymbols_eq]

/-- Settles O22, one completion of COUNT for each side of IBUF_SIZE. -/
theorem countBuildsHistogram : Obligations.CountBuildsHistogram := by
  intro s _
  refine ⟨exec_count_beyond_buffer, fun h => ⟨_, exec_count_within_buffer h, fun x => ?_, ?_, rfl⟩⟩
  · have hlen : (s.inputBytes s.inLen.toNat).length < 2 ^ 32 :=
      (inputBytes_length s _).trans_lt s.inLen.isLt
    exact (histAt_histogram_toNat hlen x).trans (inputBytes_count s _ x)
  · exact counted_nsym_toNat s

/-! ### The order of the bytes (40_histogram R121) -/

/-- A histogram is determined by its counts, which a reordering keeps (R121). -/
theorem histogram_perm {as bs : List Byte} (h : as.Perm bs) : histogram as = histogram bs :=
  hist_ext fun x => by rw [histAt_histogram, histAt_histogram, h.count_eq]

/-- Settles O23: HIST is the same by `histogram_perm`, and NSYM is a function of HIST. -/
theorem countIgnoresByteOrder : Obligations.CountIgnoresByteOrder := by
  intro s s' t t' hlen hfit hfit' hperm ht ht'
  rw [exec_count_within_buffer hfit, Host.Outcome.next.injEq] at ht
  rw [exec_count_within_buffer hfit', Host.Outcome.next.injEq] at ht'
  subst ht ht'
  have hhist : s'.counted.hist = s.counted.hist := by
    rw [State.counted_hist, State.counted_hist, hlen]
    exact (histogram_perm hperm).symm
  have hnsym : s'.counted.nsym = s.counted.nsym := by
    rw [State.counted_nsym, State.counted_nsym, hhist]
  exact ⟨hhist, hnsym⟩

end Sys2Proof.Machine

/-! PROOFS. BUILD: what it writes, the records of its tree, the weight of the root and the order of the merges;
the obligations of 41_tree_builder. -/

namespace Sys2Proof.Machine

/-! ### The two completions of BUILD (41_tree_builder R130, R135, R137) -/

/-- L of rule R130 is positive exactly when a symbol is counted. -/
theorem distinctSymbols_ne_zero_iff {h : HistMem} : distinctSymbols h ≠ 0 ↔ ∃ x, histAt h x ≠ 0 := by
  rw [distinctSymbols_eq, symbolCount, Ne, List.length_eq_zero_iff, List.filter_eq_nil_iff]
  constructor
  · intro hn
    by_contra hx
    exact hn fun i _ => by simpa using not_not.1 (not_exists.1 hx (BitVec.ofNat 8 i))
  · rintro ⟨x, hx⟩ hn
    exact hx (by simpa using hn x.toNat (List.mem_range.2 x.isLt))

/-- The state with BUILD's writes (R130, R137). -/
def State.built (s : State) : State :=
  { s with
    node := buildNodes s.hist, root := buildRoot (distinctSymbols s.hist), treeValid := true
    nsym := BitVec.ofNat 9 (distinctSymbols s.hist)
    ctab := emptyCodes, ctValid := false, maxLen := 0 }

@[simp] theorem State.built_node (s : State) : s.built.node = buildNodes s.hist := rfl

@[simp] theorem State.built_root (s : State) : s.built.root = buildRoot (distinctSymbols s.hist) := rfl

@[simp] theorem State.built_nsym (s : State) : s.built.nsym = BitVec.ofNat 9 (distinctSymbols s.hist) := rfl

/-- BUILD completes with the result of its rule. -/
theorem exec_build (s : State) : exec .build s = .next (s.complete 2 (buildResult s)) := rfl

theorem exec_build_empty {s : State} (h : ∀ x, histAt s.hist x = 0) :
    exec .build s = .next (s.failed 2 .emptyInput 1 0) := by
  have h0 : distinctSymbols s.hist = 0 := by
    by_contra h0
    obtain ⟨x, hx⟩ := distinctSymbols_ne_zero_iff.1 h0
    exact hx (h x)
  have hr : buildResult s = .error .emptyHistogram := if_pos h0
  rw [exec_build, hr]
  rfl

theorem exec_build_counted {s : State} (h : ∃ x, histAt s.hist x ≠ 0) :
    exec .build s = .next (s.built.succeeded 2) := by
  have hr : buildResult s = .ok s.built := if_neg (distinctSymbols_ne_zero_iff.2 h)
  rw [exec_build, hr, State.complete_ok]

theorem eq_built_of_exec_build {s t : State} (h : ∃ x, histAt s.hist x ≠ 0)
    (ht : exec .build s = .next t) : t = s.built.succeeded 2 := by
  rw [exec_build_counted h, Host.Outcome.next.injEq] at ht
  exact ht.symm

theorem built_nsym_toNat (s : State) : s.built.nsym.toNat = symbolCount s.hist := by
  have hle := distinctSymbols_le s.hist
  rw [State.built_nsym, BitVec.toNat_ofNat, Nat.mod_eq_of_lt (by omega), distinctSymbols_eq]

/-- The root over one leaf, or over several (R130, R134). -/
theorem buildRoot_toNat {h : HistMem} (h0 : distinctSymbols h ≠ 0) :
    (buildRoot (distinctSymbols h)).toNat = if symbolCount h = 1 then 256 else 254 + symbolCount h := by
  have hle := distinctSymbols_le h
  rw [buildRoot, internalIdx_toNat (by omega), ← distinctSymbols_eq]
  split_ifs <;> omega

/-- Settles O25: these are the writes of `State.built`. -/
theorem buildReplacesTreeAndTable : Obligations.BuildReplacesTreeAndTable := fun s h =>
  ⟨_, exec_build_counted h, built_nsym_toNat s, buildRoot_toNat (distinctSymbols_ne_zero_iff.2 h),
    codeAt_emptyCodes, rfl⟩

/-- Settles O24. -/
theorem buildOnEmptyHistogram : Obligations.BuildOnEmptyHistogram := fun _ h => exec_build_empty h

/-- Settles O26: the tree, the root and the number of leaves that BUILD writes are functions of HIST. -/
theorem buildDependsOnHistogramOnly : Obligations.BuildDependsOnHistogramOnly := by
  intro s s' t t' hh h ht ht'
  rw [eq_built_of_exec_build h ht, eq_built_of_exec_build (hh ▸ h) ht']
  simp only [State.succeeded_node, State.succeeded_root, State.succeeded_nsym, State.built_node,
    State.built_root, State.built_nsym, hh, and_self]

/-! ### The two forms of the tree (41_tree_builder R130, R134) -/

theorem buildNodes_single {h : HistMem} {e : QEntry} (he : leafQueue h = [e]) :
    buildNodes h = singleNodes (leafNodes h) e := by
  simp [buildNodes, he, singleNodes]

theorem buildNodes_several {h : HistMem} {k : Nat} (hk : distinctSymbols h = k + 2) :
    buildNodes h = mergeLoop (k + 1) 0 (k + 2) (leafQueue h) (leafNodes h) := by
  rw [← leafQueue_length] at hk
  unfold buildNodes
  split
  · next e he => simp [he] at hk
  · rw [hk]
    rfl

/-- Every tree of BUILD is a root over one leaf, or the forest of L - 1 merges, with one top. -/
theorem buildNodes_cases {h : HistMem} (h0 : distinctSymbols h ≠ 0) :
    (∃ e, leafQueue h = [e] ∧ Forest h (leafNodes h) 0 [e] ∧ distinctSymbols h = 1)
      ∨ ∃ k e, distinctSymbols h = k + 2 ∧ Forest h (buildNodes h) (k + 1) [e] := by
  by_cases h1 : distinctSymbols h = 1
  · obtain ⟨e, he⟩ := List.length_eq_one_iff.1 ((leafQueue_length h).trans h1)
    exact .inl ⟨e, he, he ▸ forest_leafNodes h, h1⟩
  · obtain ⟨k, hk⟩ : ∃ k, distinctSymbols h = k + 2 := ⟨distinctSymbols h - 2, by omega⟩
    obtain ⟨e, he⟩ := forest_buildNodes hk
    exact .inr ⟨k, e, hk, he⟩

/-! ### The records of the tree (41_tree_builder R131, R136, R138) -/

/-- Settles O30 by the shape of the forest that the merges leave. -/
theorem buildTreeHasShape : Obligations.BuildTreeHasShape := by
  intro s t h ht
  rw [eq_built_of_exec_build h ht]
  exact treeShape_buildNodes (distinctSymbols_ne_zero_iff.2 h)

/-- No merge writes a record below 256 (R131, R136). -/
theorem nodeAt_buildNodes_low {h : HistMem} (h0 : distinctSymbols h ≠ 0) {n : NodeIdx}
    (hn : n.toNat < 256) : nodeAt (buildNodes h) n = leafAt h n := by
  rcases buildNodes_cases h0 with ⟨e, he, hF, _⟩ | ⟨k, e, _, hF⟩
  · have hne : n ≠ internalIdx 0 := by
      rintro rfl
      exact absurd hn (by decide)
    rw [buildNodes_single he, nodeAt_singleNodes_old hne, hF.low n hn]
  · exact hF.low n hn

theorem isLeaf_buildNodes {h : HistMem} (h0 : distinctSymbols h ≠ 0) {n : NodeIdx} :
    isLeaf (buildNodes h) n ↔ n.toNat < 256 ∧ histAt h (n.setWidth 8) ≠ 0 := by
  by_cases hn : n.toNat < 256
  · simp only [isLeaf, nodeAt_buildNodes_low h0 hn, leafAt_leaf, and_self, leafAt_valid_iff, hn,
      true_and]
  · refine iff_of_false (fun hL => ?_) (by simp [hn])
    have := ((treeShape_buildNodes h0).leaf_form n hL).1
    have := (nodeAt (buildNodes h) n).symbol.isLt
    omega

theorem isInternal_buildNodes {h : HistMem} (h0 : distinctSymbols h ≠ 0) {n : NodeIdx} :
    isInternal (buildNodes h) n ↔ 256 ≤ n.toNat ∧ n.toNat ≤ (buildRoot (distinctSymbols h)).toNat := by
  rcases buildNodes_cases h0 with ⟨e, he, hF, h1⟩ | ⟨k, e, hk, hF⟩
  · rw [buildNodes_single he, hF.single_isInternal_iff, h1, buildRoot, ← BitVec.toNat_inj,
      internalIdx_toNat (by omega)]
    omega
  · have hle := distinctSymbols_le h
    rw [hF.isInternal_iff, buildRoot, internalIdx_toNat (by omega)]
    omega

/-- A symbol is a record index below 256. -/
theorem exists_symbol_iff {n : NodeIdx} {P : Byte → Prop} :
    (∃ x : Byte, n.toNat = x.toNat ∧ P x) ↔ n.toNat < 256 ∧ P (n.setWidth 8) := by
  constructor
  · rintro ⟨x, hn, hx⟩
    have e : n.setWidth 8 = x := BitVec.eq_of_toNat_eq (by
      rw [BitVec.toNat_setWidth, hn, Nat.mod_eq_of_lt x.isLt])
    exact ⟨hn ▸ x.isLt, e ▸ hx⟩
  · rintro ⟨hn, hx⟩
    exact ⟨_, by simpa using (Nat.mod_eq_of_lt hn).symm, hx⟩

/-- Settles O27. -/
theorem buildValidRecords : Obligations.BuildValidRecords := by
  intro s t h ht n
  rw [eq_built_of_exec_build h ht]
  have h0 := distinctSymbols_ne_zero_iff.2 h
  refine ⟨?_, ?_, (treeShape_buildNodes h0).invalid_form n⟩
  · rw [exists_symbol_iff]
    exact isLeaf_buildNodes h0
  · rw [← buildRoot_toNat h0]
    exact isInternal_buildNodes h0

theorem setWidth_symbol_lt (x : Byte) : (x.setWidth 9).toNat < 256 := by
  bv_omega

/-- The leaf record that a symbol names (R131). -/
theorem leafAt_symbol {h : HistMem} {x : Byte} (hx : histAt h x ≠ 0) :
    leafAt h (x.setWidth 9) = leafRecord x (histAt h x) := by
  have hw : (x.setWidth 9).setWidth 8 = x := by simp
  rw [leafAt_counted (by rwa [hw]), hw]

/-- Settles O28: no merge writes a leaf's record. -/
theorem buildLeafRecords : Obligations.BuildLeafRecords := by
  intro s t x hx ht
  rw [eq_built_of_exec_build ⟨x, hx⟩ ht, State.succeeded_node, State.built_node,
    nodeAt_buildNodes_low (distinctSymbols_ne_zero_iff.2 ⟨x, hx⟩) (setWidth_symbol_lt x), leafAt_symbol hx]
  rfl

/-! ### The weight of the root (41_tree_builder R138 (d), R140) -/

theorem totalCount_eq_sum (h : HistMem) :
    totalCount h = ((List.range 256).map fun x => (histAt h (BitVec.ofNat 8 x)).toNat).sum := by
  rw [totalCount]
  congr 1
  apply List.ext_getElem
  · simp
  · intro i hi _
    have hi : i < 256 := by simpa using hi
    simp [histAt, Nat.mod_eq_of_lt hi]

/-- A forest's one top weighs every count together. -/
theorem Forest.top_weight_total {h : HistMem} {nodes : NodeMem} {k : Nat} {e : QEntry}
    (hF : Forest h nodes k [e]) : e.weight.toNat = totalCount h := by
  simpa using hF.total

theorem root_weight_buildNodes {h : HistMem} (h0 : distinctSymbols h ≠ 0) :
    (nodeAt (buildNodes h) (buildRoot (distinctSymbols h))).weight.toNat = totalCount h := by
  rcases buildNodes_cases h0 with ⟨e, he, hF, h1⟩ | ⟨k, e, hk, hF⟩
  · rw [buildNodes_single he, h1, buildRoot, nodeAt_singleNodes_root, ← hF.top_weight_total]
    rfl
  · rw [hk, buildRoot, Nat.add_sub_cancel, ← hF.root_idx, ← hF.top_weight e (by simp),
      hF.top_weight_total]

/-- Settles O31: a merge keeps the sum of the weights of the tops. -/
theorem buildRootWeighsHistogram : Obligations.BuildRootWeighsHistogram := by
  intro s t h ht
  rw [eq_built_of_exec_build h ht, ← totalCount_eq_sum]
  exact root_weight_buildNodes (distinctSymbols_ne_zero_iff.2 h)

/-! ### A single counted symbol (41_tree_builder R134) -/

/-- The container of a single counted symbol. -/
theorem leafQueue_of_single {h : HistMem} {x : Byte} (hx : histAt h x ≠ 0)
    (hy : ∀ y, y ≠ x → histAt h y = 0) : ∃ e, leafQueue h = [e] ∧ e.idx = x.setWidth 9 := by
  have hmem : ∀ n, n ∈ (leafQueue h).map (·.idx) ↔ n ∈ [x.setWidth 9] := by
    intro n
    rw [leafQueue_map_idx, mem_presentSymbols_idx, List.mem_singleton]
    constructor
    · rintro ⟨hn, hv⟩
      have e : n.setWidth 8 = x := not_not.1 (mt (hy _) hv)
      apply BitVec.eq_of_toNat_eq
      simp [← e]
      omega
    · rintro rfl
      exact ⟨setWidth_symbol_lt x, by simpa using hx⟩
  have hp := (List.perm_ext_iff_of_nodup (leafQueue_nodup h) (List.nodup_singleton _)).2 hmem
  obtain ⟨e, he, hidx⟩ := List.map_eq_singleton_iff.1 (List.perm_singleton.1 hp)
  exact ⟨e, he, hidx⟩

/-- Under the synthetic root the walk of GEN has one path, the bit 0 to the leaf (R134, R150). -/
theorem Forest.single_codeWalk {h : HistMem} {nodes : NodeMem} {e : QEntry} (hF : Forest h nodes 0 [e])
    (depth : Nat) : codeWalk (singleNodes nodes e) (depth + 1) (internalIdx 0) [] =
      some [((nodeAt nodes e.idx).symbol, [false])] := by
  have hnil : e.idx ≠ Config.nilIdx := ne_nilIdx_of_lt (n := internalIdx 0) (by
    rw [internalIdx_toNat (by omega)]
    exact hF.single_lt)
  have hleaf := codeWalk_leaf (singleNodes nodes e) depth e.idx [false] (hF.single_isLeaf_iff.2 rfl).2
  rw [nodeAt_singleNodes_old hF.single_ne_root] at hleaf
  simp [codeWalk, nodeAt_singleNodes_root, singleRoot, hnil, hleaf]

theorem exec_gen_of_genTable {s : State} {t : CodeMem} (hv : s.treeValid = true)
    (ht : genTable s.node s.root = some t) : exec .gen s = .next ((s.withTable t).succeeded 3) := by
  simp [exec, execGen, hv, ht]

/-- BUILD of a single counted symbol: the synthetic root over the symbol's own leaf (R134). -/
theorem built_of_single {s : State} {x : Byte} (hx : histAt s.hist x ≠ 0)
    (hy : ∀ y, y ≠ x → histAt s.hist y = 0) :
    ∃ e, Forest s.hist (leafNodes s.hist) 0 [e] ∧ e.idx = x.setWidth 9
      ∧ s.built.node = singleNodes (leafNodes s.hist) e ∧ s.built.root = internalIdx 0 := by
  obtain ⟨e, he, hidx⟩ := leafQueue_of_single hx hy
  refine ⟨e, he ▸ forest_leafNodes s.hist, hidx, buildNodes_single he, ?_⟩
  rw [State.built_root, ← leafQueue_length, he]
  rfl

/-- Settles O29: the container holds the one leaf, and the walk of GEN has one path. -/
theorem buildSingleSymbolTree : Obligations.BuildSingleSymbolTree := by
  intro s x hx hy
  obtain ⟨e, hF, hidx, hnode, hroot⟩ := built_of_single hx hy
  have hleaf : nodeAt (leafNodes s.hist) e.idx = leafRecord x (histAt s.hist x) := by
    rw [hF.low _ hF.single_lt, hidx, leafAt_symbol hx]
  have hgen : genTable s.built.node s.built.root = some (codeTable [(x, [false])]) := by
    rw [hnode, hroot, genTable, show Config.maxCodeLen = 254 + 1 from rfl, hF.single_codeWalk, hleaf]
    rfl
  refine ⟨_, exec_build_counted ⟨x, hx⟩, hroot, ?_, ?_, ?_,
    _, exec_gen_of_genTable rfl hgen, codeAt_codeSet_same _ _ _⟩ <;>
    rw [State.succeeded_node, hnode, ← hidx]
  · exact hF.single_isLeaf_iff.2 rfl
  · rw [nodeAt_singleNodes_old hF.single_ne_root, ← hF.top_weight e (by simp)]
    exact nodeAt_singleNodes_root
  · intro n hn hne
    rw [nodeAt_singleNodes_old hn]
    exact hF.invalid (by simpa using mt hF.single_valid_iff.1 hne)

/-! ### ExtractMin takes the least entry (41_tree_builder R132) -/

/-- An entry that ExtractMin may take although another one is in the container (R132). -/
def QEntry.notAfter (a b : QEntry) : Prop :=
  a.weight.toNat < b.weight.toNat ∨ (a.weight = b.weight ∧ a.seq ≤ b.seq)

theorem QEntry.before_iff {a b : QEntry} : a.before b = true ↔
    a.weight.toNat < b.weight.toNat ∨ (a.weight = b.weight ∧ a.seq < b.seq) := by
  simp [QEntry.before]

theorem QEntry.notAfter_of_before {a b : QEntry} (h : a.before b = true) : a.notAfter b :=
  (QEntry.before_iff.1 h).imp_right fun ⟨hw, hs⟩ => ⟨hw, hs.le⟩

theorem QEntry.notAfter_of_not_before {a b : QEntry} (h : ¬ a.before b = true) : b.notAfter a := by
  rw [QEntry.before_iff, ← BitVec.toNat_inj] at h
  rw [QEntry.notAfter, ← BitVec.toNat_inj]
  omega

theorem QEntry.notAfter.trans {a b c : QEntry} (h₁ : a.notAfter b) (h₂ : b.notAfter c) : a.notAfter c := by
  rw [QEntry.notAfter, ← BitVec.toNat_inj] at *
  omega

/-- ExtractMin takes no entry that is after another (R132). -/
theorem extractMin_notAfter {q : List QEntry} {m : QEntry} {rest : List QEntry}
    (h : extractMin q = some (m, rest)) : ∀ e ∈ rest, m.notAfter e := by
  induction q generalizing m rest with
  | nil => simp [extractMin] at h
  | cons e q ih =>
    rw [extractMin] at h
    split at h
    · obtain ⟨rfl, rfl⟩ : e = m ∧ [] = rest := by simpa using h
      simp
    · next m' r' hq =>
      split at h
      · next hb =>
        obtain ⟨rfl, rfl⟩ : e = m ∧ q = rest := by simpa using h
        have hem := QEntry.notAfter_of_before hb
        intro f hf
        rcases List.mem_cons.1 ((extractMin_perm hq).mem_iff.2 hf) with rfl | hf
        · exact hem
        · exact hem.trans (ih hq f hf)
      · next hb =>
        obtain ⟨rfl, rfl⟩ : m' = m ∧ e :: r' = rest := by simpa using h
        exact List.forall_mem_cons.2 ⟨QEntry.notAfter_of_not_before hb, ih hq⟩

theorem exists_extractMin {q : List QEntry} (h : q ≠ []) : ∃ m rest, extractMin q = some (m, rest) := by
  obtain ⟨⟨m, rest⟩, hm⟩ := Option.ne_none_iff_exists'.1 (mt extractMin_eq_none.1 h)
  exact ⟨m, rest, hm⟩

/-- Settles O32. -/
theorem extractMinTakesLeast : Obligations.ExtractMinTakesLeast := by
  intro q hq
  obtain ⟨m, rest, h⟩ := exists_extractMin hq
  exact ⟨m, rest, h, extractMin_perm h, extractMin_notAfter h⟩

/-! ### The order of the merges (41_tree_builder R132, R133) -/

/-- One merge of BUILD takes the two least entries of a container of at least two (R130, R132). -/
theorem mergeLoop_succ {q : List QEntry} (hq : 2 ≤ q.length) (count k seq : Nat) (nodes : NodeMem) :
    ∃ a b q₂, (a :: b :: q₂).Perm q ∧ (∀ e ∈ b :: q₂, a.notAfter e) ∧ (∀ e ∈ q₂, b.notAfter e)
      ∧ mergeLoop (count + 1) k seq q nodes = mergeLoop count (k + 1) (seq + 1)
          ({ weight := a.weight + b.weight, seq := seq, idx := internalIdx k } :: q₂)
          (mergeNodes nodes k a b) := by
  obtain ⟨a, q₁, ha⟩ := exists_extractMin (List.length_pos_iff.1 (by omega : 0 < q.length))
  have hlen := extractMin_length ha
  obtain ⟨b, q₂, hb⟩ := exists_extractMin (List.length_pos_iff.1 (by omega : 0 < q₁.length))
  have hp := extractMin_perm hb
  refine ⟨a, b, q₂, (hp.cons a).trans (extractMin_perm ha), fun e he => ?_, extractMin_notAfter hb, ?_⟩
  · exact extractMin_notAfter ha e (hp.mem_iff.1 he)
  · simp only [mergeLoop, ha, hb, mergeNodes]

/-- BUILD's second invariant after `k` merges, `seq` the next entry's: the container's order of insertion is
that of the record indices, the merges so far are in the order of R132 and R133, and the last RIGHT comes
before all that is left. -/
structure Ordered (nodes : NodeMem) (k seq : Nat) (q : List QEntry) : Prop where
  seq_lt : ∀ e ∈ q, e.seq < seq
  idx_le : ∀ e ∈ q, ∀ f ∈ q, e.seq ≤ f.seq → e.idx.toNat ≤ f.idx.toNat
  sides : ∀ n, isInternal nodes n → comesBefore nodes (nodeAt nodes n).left (nodeAt nodes n).right
  next : ∀ n m, isInternal nodes n → isInternal nodes m → m.toNat = n.toNat + 1 →
    comesBefore nodes (nodeAt nodes n).right (nodeAt nodes m).left
  last : ∀ n, isInternal nodes n → n.toNat + 1 = 256 + k →
    ∀ e ∈ q, comesBefore nodes (nodeAt nodes n).right e.idx

theorem presentSymbols_ascending (h : HistMem) : (presentSymbols h).Pairwise fun p r => p.2 < r.2 := by
  refine List.Pairwise.filter _ ?_
  rw [← List.pairwise_map, List.zipIdx_map_snd]
  exact List.pairwise_lt_range'

/-- An entry of the first container: its seq counts the symbols before its own (R131). -/
theorem mem_leafQueue {h : HistMem} {e : QEntry} (he : e ∈ leafQueue h) :
    ∃ hs : e.seq < (presentSymbols h).length, e.idx.toNat = ((presentSymbols h)[e.seq]).2 := by
  obtain ⟨⟨⟨v, i⟩, j⟩, hm, rfl⟩ := List.mem_map.1 he
  obtain ⟨hj, hget⟩ := List.getElem?_eq_some_iff.1 (List.mem_zipIdx_iff_getElem?.1 hm)
  have hi : i < 256 := (mem_presentSymbols.1 (List.fst_mem_of_mem_zipIdx hm)).1
  refine ⟨hj, ?_⟩
  simp only [BitVec.toNat_ofNat, hget]
  exact Nat.mod_eq_of_lt (by omega)

/-- The leaves are inserted in the order of their records, and nothing is merged yet (R131). -/
theorem ordered_leafNodes (h : HistMem) : Ordered (leafNodes h) 0 (distinctSymbols h) (leafQueue h) := by
  have hnone : ∀ n, ¬ isInternal (leafNodes h) n := fun n hn => by
    have := (forest_leafNodes h).isInternal_iff.1 hn
    omega
  exact {
    seq_lt := fun e he => by
      obtain ⟨hs, _⟩ := mem_leafQueue he
      simpa [← leafQueue_length, leafQueue] using hs
    idx_le := fun e he f hf hef => by
      obtain ⟨hs, hes⟩ := mem_leafQueue he
      obtain ⟨ht, hft⟩ := mem_leafQueue hf
      rcases hef.eq_or_lt with heq | hlt
      · simp [hes, hft, heq]
      · rw [hes, hft]
        exact (List.pairwise_iff_getElem.1 (presentSymbols_ascending h) _ _ hs ht hlt).le
    sides := fun n hn => absurd hn (hnone n)
    next := fun n _ hn => absurd hn (hnone n)
    last := fun n hn => absurd hn (hnone n) }

section Order
variable {h : HistMem} {nodes : NodeMem} {k seq : Nat}

theorem Ordered.perm {q q' : List QEntry} (hO : Ordered nodes k seq q) (hp : q'.Perm q) :
    Ordered nodes k seq q' :=
  { hO with
    seq_lt := fun e he => hO.seq_lt e (hp.mem_iff.1 he)
    idx_le := fun e he f hf => hO.idx_le e (hp.mem_iff.1 he) f (hp.mem_iff.1 hf)
    last := fun n hn hk e he => hO.last n hn hk e (hp.mem_iff.1 he) }

/-- The order of two entries is that of their records. -/
theorem comesBefore_of_notAfter {q : List QEntry} {e f : QEntry} (hF : Forest h nodes k q)
    (hO : Ordered nodes k seq q) (he : e ∈ q) (hf : f ∈ q) (hne : e.idx ≠ f.idx) (hef : e.notAfter f) :
    comesBefore nodes e.idx f.idx := by
  rw [comesBefore, ← hF.top_weight e he, ← hF.top_weight f hf]
  refine hef.imp_right fun ⟨hw, hs⟩ => ⟨hw, ?_⟩
  exact (hO.idx_le e he f hf hs).lt_of_ne (mt BitVec.eq_of_toNat_eq hne)

variable {a b : QEntry} {q : List QEntry}

/-- A merge leaves the order of the records there were. -/
theorem comesBefore_mergeNodes {c d : NodeIdx} (hc : c ≠ internalIdx k) (hd : d ≠ internalIdx k) :
    comesBefore (mergeNodes nodes k a b) c d ↔ comesBefore nodes c d := by
  rw [comesBefore, nodeAt_mergeNodes_old hc, nodeAt_mergeNodes_old hd, comesBefore]

theorem isInternal_mergeNodes {n : NodeIdx} :
    isInternal (mergeNodes nodes k a b) n ↔ n = internalIdx k ∨ isInternal nodes n := by
  by_cases hn : n = internalIdx k
  · simp [hn, isInternal, nodeAt_mergeNodes_new, mergeRecord]
  · simp [hn, isInternal, nodeAt_mergeNodes_old hn]

variable (hF : Forest h nodes k (a :: b :: q))
include hF

/-- An internal record and its children are not the next merge's. -/
theorem Forest.internal_ne_next {n : NodeIdx} (hn : isInternal nodes n) : n ≠ internalIdx k
    ∧ (nodeAt nodes n).left ≠ internalIdx k ∧ (nodeAt nodes n).right ≠ internalIdx k := by
  have hlt := (hF.isInternal_iff.1 hn).2
  have hl := (hF.isMerge hn).left_lt
  have hr := (hF.isMerge hn).right_lt
  exact ⟨hF.ne_next (by omega), hF.ne_next (by omega), hF.ne_next (by omega)⟩

/-- The second entry of a merge comes before the merge's own: it weighs no more, and its index is lower. -/
theorem Forest.right_comesBefore_next :
    comesBefore (mergeNodes nodes k a b) b.idx (internalIdx k) := by
  have hb : b ∈ a :: b :: q := by simp
  have hlt := hF.valid_lt (hF.top_valid hb).1
  rw [comesBefore, nodeAt_mergeNodes_old (hF.top_ne_next hb), nodeAt_mergeNodes_new,
    ← hF.top_weight b hb, ← BitVec.toNat_inj, hF.next_toNat]
  simp only [mergeRecord, hF.weight_add]
  omega

/-- One merge of the two least entries keeps the order (R132, R133). -/
theorem Ordered.merge (hO : Ordered nodes k seq (a :: b :: q)) (ha : ∀ e ∈ b :: q, a.notAfter e)
    (hb : ∀ e ∈ q, b.notAfter e) : Ordered (mergeNodes nodes k a b) (k + 1) (seq + 1)
      ({ weight := a.weight + b.weight, seq := seq, idx := internalIdx k } :: q) where
  seq_lt := by
    refine List.forall_mem_cons.2 ⟨by simp, fun e he => ?_⟩
    have := hO.seq_lt e (by simp [he])
    omega
  idx_le := by
    refine List.forall_mem_cons.2 ⟨?_, fun e he => List.forall_mem_cons.2 ⟨fun _ => ?_, ?_⟩⟩
    · refine List.forall_mem_cons.2 ⟨fun _ => le_rfl, fun f hf hs => ?_⟩
      exact absurd (hO.seq_lt f (by simp [hf])) (Nat.not_lt.2 hs)
    · have := hF.valid_lt (hF.top_valid (e := e) (by simp [he])).1
      simp only [hF.next_toNat]
      omega
    · exact fun f hf => hO.idx_le e (by simp [he]) f (by simp [hf])
  sides n hn := by
    rcases isInternal_mergeNodes.1 hn with rfl | hn
    · simp only [nodeAt_mergeNodes_new, mergeRecord]
      rw [comesBefore_mergeNodes (hF.top_ne_next (by simp)) (hF.top_ne_next (by simp))]
      exact comesBefore_of_notAfter hF hO (by simp) (by simp) hF.top_pair_ne (ha b (by simp))
    · obtain ⟨hne, hl, hr⟩ := hF.internal_ne_next hn
      rw [nodeAt_mergeNodes_old hne, comesBefore_mergeNodes hl hr]
      exact hO.sides n hn
  next n m hn hm hmn := by
    have hle := (hF.merge seq).isInternal_iff.1 hm
    have hn : isInternal nodes n := (isInternal_mergeNodes.1 hn).resolve_left fun he => by
      rw [he, hF.next_toNat] at hmn
      omega
    obtain ⟨hne, _, hr⟩ := hF.internal_ne_next hn
    rw [nodeAt_mergeNodes_old hne]
    rcases isInternal_mergeNodes.1 hm with rfl | hm
    · simp only [nodeAt_mergeNodes_new, mergeRecord]
      rw [comesBefore_mergeNodes hr (hF.top_ne_next (by simp))]
      rw [hF.next_toNat] at hmn
      exact hO.last n hn hmn.symm a (by simp)
    · obtain ⟨hme, hl, _⟩ := hF.internal_ne_next hm
      rw [nodeAt_mergeNodes_old hme, comesBefore_mergeNodes hr hl]
      exact hO.next n m hn hm hmn
  last n _ hk := by
    obtain rfl : n = internalIdx k := BitVec.eq_of_toNat_eq (by rw [hF.next_toNat]; omega)
    simp only [nodeAt_mergeNodes_new, mergeRecord]
    refine List.forall_mem_cons.2 ⟨hF.right_comesBefore_next, fun e he => ?_⟩
    have hnd := hF.top_nodup
    simp only [List.map_cons, List.nodup_cons] at hnd
    rw [comesBefore_mergeNodes (hF.top_ne_next (by simp)) (hF.top_ne_next (by simp [he]))]
    exact comesBefore_of_notAfter hF hO (by simp) (by simp [he])
      (fun heq => hnd.2.1 (heq ▸ List.mem_map_of_mem he)) (hb e he)

end Order

/-- The merges of BUILD keep the order (R130). -/
theorem ordered_mergeLoop {h : HistMem} {nodes : NodeMem} {count k seq : Nat} {q : List QEntry}
    (hF : Forest h nodes k q) (hO : Ordered nodes k seq q) (hq : q.length = count + 1) :
    ∃ seq' q', Ordered (mergeLoop count k seq q nodes) (k + count) seq' q' := by
  induction count generalizing k seq q nodes with
  | zero => exact ⟨seq, q, hO⟩
  | succ count ih =>
    obtain ⟨a, b, q₂, hp, ha, hb, hloop⟩ := mergeLoop_succ (q := q) (by omega) count k seq nodes
    have hF := hF.perm hp
    have hlen := hp.length_eq
    simp only [List.length_cons] at hlen
    rw [hloop, show k + (count + 1) = k + 1 + count by omega]
    exact ih (hF.merge seq) ((hO.perm hp).merge hF ha hb) (by simp only [List.length_cons]; omega)

theorem ordered_buildNodes {h : HistMem} {k : Nat} (hk : distinctSymbols h = k + 2) :
    ∃ seq q, Ordered (buildNodes h) (k + 1) seq q := by
  have hO := ordered_leafNodes h
  rw [hk] at hO
  obtain ⟨seq, q, hO⟩ := ordered_mergeLoop (forest_leafNodes h) hO ((leafQueue_length h).trans hk)
  rw [buildNodes_several hk]
  exact ⟨seq, q, by simpa using hO⟩

/-- Settles O33: a record with a right child is a merge's, and the merges are in order. -/
theorem buildMergesInOrder : Obligations.BuildMergesInOrder := by
  intro s t h ht n
  rw [eq_built_of_exec_build h ht]
  rw [State.succeeded_node, State.built_node]
  rcases buildNodes_cases (distinctSymbols_ne_zero_iff.2 h) with ⟨e, he, hF, _⟩ | ⟨k, _, hk, _⟩
  · rw [buildNodes_single he]
    intro hn hr
    rw [hF.single_isInternal_iff.1 hn, nodeAt_singleNodes_root] at hr
    exact absurd rfl hr
  · obtain ⟨_, _, hO⟩ := ordered_buildNodes hk
    exact fun hn _ => ⟨hO.sides n hn, fun m hm => hO.next n m hn hm⟩

end Sys2Proof.Machine

/-! PROOFS. GEN: its two completions, and its codes as the paths to the leaves of a tree, prefix-free and
complete; the obligations of 42_code_table. -/

namespace Sys2Proof.Machine

/-! ### The invariant's tree and table (10_state R44, R45) -/

section Inv
variable {s : State} (h : s.Inv)
include h

theorem State.Inv.treeShape (hv : s.treeValid = true) : TreeShape s.node s.root := by
  simpa [State.treeOk, hv] using h.tree

/-- A valid table is that of a tree. -/
theorem State.Inv.tree_and_table (hc : s.ctValid = true) :
    TreeShape s.node s.root ∧ TableOk s.node s.root s.ctab := by
  have hcodes := h.codes
  simp only [State.codesOk, hc, if_true] at hcodes
  obtain ⟨hv, ht, _⟩ := hcodes
  exact ⟨h.treeShape hv, ht⟩

/-- A symbol has a code only in a valid table. -/
theorem State.Inv.ctValid_of_code {x : Byte} (hx : (codeAt s.ctab x).valid = true) : s.ctValid = true := by
  by_contra hc
  have hcodes := h.codes
  simp only [State.codesOk, hc, if_false] at hcodes
  simp [hcodes.2 x, CodeEntry.invalid] at hx

end Inv

/-! ### The two completions of GEN (42_code_table R150) -/

theorem exec_gen_without_tree {s : State} (hv : s.treeValid = false) :
    exec .gen s = .next (s.failed 3 .notReady 1 0) := by
  have he : exec .gen s = .next (s.complete 3 (.error .noTreeToCode)) := by simp [exec, execGen, hv]
  rw [he, State.complete_error]
  rfl

/-- Settles O34. -/
theorem genWithoutTree : Obligations.GenWithoutTree := fun _ hv => exec_gen_without_tree hv

/-- Settles O35: the walk of GEN ends on a tree of BUILD's shape, and its table holds the paths. -/
theorem genCodesAreLeafPaths : Obligations.GenCodesAreLeafPaths := by
  intro s h hv
  have hT := h.treeShape hv
  obtain ⟨t, ht⟩ := Option.isSome_iff_exists.1 (genTable_isSome hT)
  have hok := tableOk_genTable hT ht
  obtain ⟨hattained, hgreatest⟩ := maxLen_of_tableOk hT hok
  exact ⟨_, exec_gen_of_genTable hv ht, hok, hattained, hgreatest, rfl⟩

/-! ### Paths of the tree (41_tree_builder R138, 42_code_table R151) -/

/-- One more bit leads from where a path leads to the child it names. -/
theorem follow_concat {nodes : NodeMem} {root n : NodeIdx} {p : List Bool} (hp : follow nodes root p = some n)
    (b : Bool) : follow nodes root (p ++ [b]) =
      if childOf (nodeAt nodes n) b = Config.nilIdx then none else some (childOf (nodeAt nodes n) b) := by
  rw [follow_append, hp, Option.bind_some, follow_cons]
  rfl

/-- The last bit of a path leads from a record to the child it names. -/
theorem follow_concat_eq_some {nodes : NodeMem} {root c : NodeIdx} {p : List Bool} {b : Bool}
    (hp : follow nodes root (p ++ [b]) = some c) :
    ∃ n, follow nodes root p = some n ∧ childOf (nodeAt nodes n) b = c ∧ c ≠ Config.nilIdx := by
  cases hn : follow nodes root p with
  | none => simp [follow_append, hn] at hp
  | some n =>
    rw [follow_concat hn] at hp
    split_ifs at hp with hnil
    obtain rfl := Option.some.inj hp
    exact ⟨n, rfl, rfl, hnil⟩

section Paths
variable {nodes : NodeMem} {root : NodeIdx} (hT : TreeShape nodes root)
include hT

/-- Only an internal record has a present child. -/
theorem TreeShape.isChild_childOf {n : NodeIdx} {b : Bool}
    (hc : childOf (nodeAt nodes n) b ≠ Config.nilIdx) :
    isChild nodes n (childOf (nodeAt nodes n) b) := by
  have hn : isInternal nodes n := by
    by_contra hn
    have hnil : (nodeAt nodes n).left = Config.nilIdx ∧ (nodeAt nodes n).right = Config.nilIdx := by
      cases hv : (nodeAt nodes n).valid with
      | false => simp [hT.invalid_form n hv, NodeRecord.invalid]
      | true => exact (hT.leaf_form n ((isLeaf_or_isInternal hv).resolve_right hn)).2
    cases b <;> simp [childOf, hnil] at hc
  cases b with
  | false => exact ⟨hn, .inl rfl⟩
  | true => exact ⟨hn, .inr rfl⟩

/-- A present child is a valid record of lower index (R138 (c)). -/
theorem TreeShape.childOf_lower {n : NodeIdx} {b : Bool} (hc : childOf (nodeAt nodes n) b ≠ Config.nilIdx) :
    (nodeAt nodes (childOf (nodeAt nodes n) b)).valid = true
      ∧ (childOf (nodeAt nodes n) b).toNat < n.toNat := by
  have hn := (hT.isChild_childOf hc).1
  cases b with
  | false => exact hT.left_child n hn
  | true =>
    obtain ⟨hv, hlt, _⟩ := hT.right_child n hn hc
    exact ⟨hv, hlt⟩

/-- A present child is on one side only (R138 (a)). -/
theorem TreeShape.childOf_inj {n : NodeIdx} {b b' : Bool} (hc : childOf (nodeAt nodes n) b ≠ Config.nilIdx)
    (he : childOf (nodeAt nodes n) b = childOf (nodeAt nodes n) b') : b = b' := by
  have hn := (hT.isChild_childOf hc).1
  cases b <;> cases b'
  · rfl
  · exact absurd he.symm (hT.right_child n hn fun hr => hc (he.trans hr)).2.2
  · exact absurd he (hT.right_child n hn hc).2.2
  · rfl

/-- An internal record below ROOT has both children (R138 (a)). -/
theorem TreeShape.childOf_ne_nil {n : NodeIdx} (hn : isInternal nodes n) (hroot : n ≠ root) (b : Bool) :
    childOf (nodeAt nodes n) b ≠ Config.nilIdx := by
  cases b with
  | false => exact ne_nilIdx_of_lt (hT.left_child n hn).2
  | true => exact fun hr => hroot (hT.one_child n hn hr).1

/-- ROOT is not record 511. -/
theorem TreeShape.root_le : root.toNat ≤ 510 := by
  obtain ⟨_, hne, _⟩ := hT.internal_form root hT.root_internal
  simp only [Config.nilIdx] at hne
  bv_omega

/-- Only the empty path leads to ROOT. -/
theorem TreeShape.path_to_root {p : List Bool} (hp : follow nodes root p = some root) : p = [] := by
  rcases List.eq_nil_or_concat' p with rfl | ⟨p, b, rfl⟩
  · rfl
  · obtain ⟨n, _, rfl, hc⟩ := follow_concat_eq_some hp
    exact absurd (hT.isChild_childOf hc) (hT.root_top n)

/-- One path leads to each record (R151): upwards from it, the last bits agree and so do the parents. -/
theorem TreeShape.path_unique {c : NodeIdx} {p q : List Bool} (hp : follow nodes root p = some c)
    (hq : follow nodes root q = some c) : p = q := by
  induction p using List.reverseRecOn generalizing c q with
  | nil =>
    obtain rfl : root = c := by simpa [follow] using hp
    exact (hT.path_to_root hq).symm
  | append_singleton p b ih =>
    obtain ⟨n, hpn, rfl, hc⟩ := follow_concat_eq_some hp
    rcases List.eq_nil_or_concat' q with rfl | ⟨q, b', rfl⟩
    · have hroot : root = childOf (nodeAt nodes n) b := by simpa [follow] using hq
      exact hT.path_to_root (hroot ▸ hp)
    · obtain ⟨n', hqn, hc', _⟩ := follow_concat_eq_some hq
      have hchild' : isChild nodes n' (childOf (nodeAt nodes n) b) :=
        hc' ▸ hT.isChild_childOf (hc'.symm ▸ hc)
      obtain rfl := hT.one_parent n n' _ (hT.isChild_childOf hc) hchild' hc
      rw [ih hpn hqn, hT.childOf_inj hc hc'.symm]

end Paths

/-! ### Codes and prefixes (42_code_table R153) -/

section Codes
variable {nodes : NodeMem} {root : NodeIdx} {t : CodeMem}

/-- A code that begins with the path to a leaf is the leaf's own. -/
theorem TreeShape.symbol_of_leaf_prefix (hT : TreeShape nodes root) (ht : TableOk nodes root t)
    {n : NodeIdx} {p : List Bool} {x : Byte} (hn : isLeaf nodes n) (hp : follow nodes root p = some n)
    (hx : (codeAt t x).valid = true) (hpre : p <+: (codeAt t x).bits) : x.setWidth 9 = n := by
  obtain ⟨r, hr⟩ := hpre
  have hpath := ht.path x hx
  rw [← hr, follow_append, hp] at hpath
  exact (hT.follow_leaf hn hpath).2

variable (ht : TableOk nodes root t)
include ht

/-- The path to an internal record is no code. -/
theorem TableOk.code_ne_of_internal {n : NodeIdx} {p : List Bool} (hn : isInternal nodes n)
    (hp : follow nodes root p = some n) {x : Byte} (hx : (codeAt t x).valid = true) :
    (codeAt t x).bits ≠ p := by
  rintro rfl
  obtain rfl : x.setWidth 9 = n := Option.some.inj ((ht.path x hx).symm.trans hp)
  have hleaf := ((ht.valid_iff x).1 hx).2
  simp [hn.2] at hleaf

/-- A bit string that leaves the tree begins no code. -/
theorem TableOk.not_prefix_of_absent {p : List Bool} (hp : follow nodes root p = none) {x : Byte}
    (hx : (codeAt t x).valid = true) : ¬ p <+: (codeAt t x).bits := by
  rintro ⟨r, hr⟩
  have hpath := ht.path x hx
  simp [← hr, follow_append, hp] at hpath

end Codes

theorem symbol_setWidth_inj {x y : Byte} (h : x.setWidth 9 = y.setWidth 9) : x = y := by
  bv_omega

/-- Settles O36: the code of `a` leads to a leaf, so no other code begins with it. -/
theorem codesArePrefixFree : Obligations.CodesArePrefixFree := by
  intro s h a b hab ha hb hpre
  obtain ⟨hT, ht⟩ := h.tree_and_table (h.ctValid_of_code ha)
  have hba := hT.symbol_of_leaf_prefix ht ((ht.valid_iff a).1 ha) (ht.path a ha) hb hpre
  exact hab (symbol_setWidth_inj hba.symm)

/-! ### The share of the bit strings that begin with a code (42_code_table R155) -/

/-- What an entry adds to the sum of R155 if its code is valid and begins with `p`: 2^255 times 2^(-LEN). -/
def codeShare (p : List Bool) (e : CodeEntry) : Nat :=
  if e.valid = true ∧ p <+: e.bits then 2 ^ (255 - e.bits.length) else 0

/-- The sum of R155, times 2^255, over the codes that begin with `p`. -/
def shareUnder (t : CodeMem) (p : List Bool) : Nat :=
  ∑ i ∈ Finset.range 256, codeShare p (codeAt t (BitVec.ofNat 8 i))

/-- A code that begins with `p`, and is not `p`, goes on with a 0 or with a 1. -/
theorem codeShare_split {p : List Bool} {e : CodeEntry} (hne : e.valid = true → e.bits ≠ p) :
    codeShare p e = codeShare (p ++ [false]) e + codeShare (p ++ [true]) e := by
  by_cases hv : e.valid = true
  · by_cases hpre : p <+: e.bits
    · obtain ⟨r, hr⟩ := hpre
      cases r with
      | nil => exact absurd (by simpa using hr.symm) (hne hv)
      | cons b r => cases b <;> simp [codeShare, hv, ← hr, List.prefix_append_right_inj]
    · have hlong : ∀ b, ¬ p ++ [b] <+: e.bits := fun b hb => hpre ((List.prefix_append p [b]).trans hb)
      simp [codeShare, hpre, hlong]
  · simp [codeShare, hv]

theorem shareUnder_split {t : CodeMem} {p : List Bool}
    (hne : ∀ x, (codeAt t x).valid = true → (codeAt t x).bits ≠ p) :
    shareUnder t p = shareUnder t (p ++ [false]) + shareUnder t (p ++ [true]) := by
  simp only [shareUnder, ← Finset.sum_add_distrib]
  exact Finset.sum_congr rfl fun i _ => codeShare_split (hne _)

/-- Under the empty path the share is the whole sum of R155. -/
theorem shareUnder_nil (t : CodeMem) : shareUnder t [] = ((List.range 256).map fun x =>
    if (codeAt t (BitVec.ofNat 8 x)).valid
    then 2 ^ (255 - (codeAt t (BitVec.ofNat 8 x)).bits.length) else 0).sum := by
  simp only [shareUnder, codeShare, List.nil_prefix, and_true]
  rfl

section Share
variable {nodes : NodeMem} {root : NodeIdx} {t : CodeMem}

theorem TableOk.shareUnder_of_absent (ht : TableOk nodes root t) {p : List Bool}
    (hp : follow nodes root p = none) : shareUnder t p = 0 :=
  Finset.sum_eq_zero fun _ _ => if_neg fun ⟨hx, hpre⟩ => ht.not_prefix_of_absent hp hx hpre

variable (hT : TreeShape nodes root) (ht : TableOk nodes root t)
include hT ht

/-- Only the leaf's own code begins with the path to it. -/
theorem TreeShape.shareUnder_leaf {n : NodeIdx} {p : List Bool} (hn : isLeaf nodes n)
    (hp : follow nodes root p = some n) : shareUnder t p = 2 ^ (255 - p.length) := by
  obtain ⟨x, rfl⟩ : ∃ x : Byte, x.setWidth 9 = n := ⟨_, hT.leaf_idx hn⟩
  have hx := (ht.valid_iff x).2 hn
  have hbits : (codeAt t x).bits = p := hT.path_unique (ht.path x hx) hp
  have hother : ∀ i ∈ Finset.range 256, i ≠ x.toNat →
      codeShare p (codeAt t (BitVec.ofNat 8 i)) = 0 := by
    intro i hi hix
    refine if_neg fun ⟨hv, hpre⟩ => hix ?_
    have hxi := hT.symbol_of_leaf_prefix ht hn hp hv hpre
    rw [← symbol_setWidth_inj hxi, BitVec.toNat_ofNat, Nat.mod_eq_of_lt (Finset.mem_range.1 hi)]
  rw [shareUnder, Finset.sum_eq_single x.toNat hother
    fun hni => absurd (Finset.mem_range.2 x.isLt) hni]
  simp [codeShare, hx, hbits]

/-- Under each present child of the record at the end of a path `p` lies the share 2^(-|p|-1): a leaf has it
alone, and below ROOT an internal record passes a half to each of its two children. The bound on |p| is that
of the indices, which go down along a path (R138 (e), R154). -/
theorem TreeShape.shareUnder_child {n : NodeIdx} {p : List Bool} (hp : follow nodes root p = some n)
    (hlen : n.toNat + p.length ≤ 510) (b : Bool) :
    shareUnder t (p ++ [b]) =
      if childOf (nodeAt nodes n) b = Config.nilIdx then 0 else 2 ^ (254 - p.length) := by
  have hpath := follow_concat hp b
  split_ifs at hpath ⊢ with hc
  · exact ht.shareUnder_of_absent hpath
  · obtain ⟨hv, hlt⟩ := hT.childOf_lower hc
    rcases isLeaf_or_isInternal hv with hleaf | hint
    · rw [hT.shareUnder_leaf ht hleaf hpath, List.length_append, List.length_singleton]
      congr 1
      omega
    · have hne : childOf (nodeAt nodes n) b ≠ root :=
        fun he => hT.root_top n (he ▸ hT.isChild_childOf hc)
      have hlen' : (childOf (nodeAt nodes n) b).toNat + (p ++ [b]).length ≤ 510 := by
        rw [List.length_append, List.length_singleton]
        omega
      have hhalf : ∀ b', shareUnder t (p ++ [b] ++ [b']) = 2 ^ (254 - (p ++ [b]).length) := fun b' => by
        rw [TreeShape.shareUnder_child hpath hlen' b', if_neg (hT.childOf_ne_nil hint hne b')]
      have hdepth : 254 - p.length = 254 - (p ++ [b]).length + 1 := by
        have := (hT.internal_form _ hint).1
        rw [List.length_append, List.length_singleton]
        omega
      rw [shareUnder_split fun x hx => ht.code_ne_of_internal hint hpath hx, hhalf, hhalf, hdepth, pow_succ,
        mul_two]
termination_by n.toNat

end Share

/-- Settles O37: half of the bit strings lie under each present child of ROOT. -/
theorem codesAreComplete : Obligations.CodesAreComplete := by
  intro s h hc
  obtain ⟨hT, ht⟩ := h.tree_and_table hc
  have hlen : s.root.toNat + ([] : List Bool).length ≤ 510 := hT.root_le
  have hleft : (nodeAt s.node s.root).left ≠ Config.nilIdx :=
    ne_nilIdx_of_lt (hT.left_child _ hT.root_internal).2
  rw [← shareUnder_nil, shareUnder_split fun x hx => ht.code_ne_of_internal hT.root_internal rfl hx,
    hT.shareUnder_child ht rfl hlen, hT.shareUnder_child ht rfl hlen]
  simp only [childOf, if_true, Bool.false_eq_true, if_false, hleft, List.length_nil]
  split_ifs <;> rfl

end Sys2Proof.Machine

/-! PROOFS. PACK: its four completions, what the artifact it writes holds and what it leaves alone; the
obligations of 43_packer. -/

namespace Sys2Proof.Machine

/-! ### The input's codes (43_packer R166, R167) -/

theorem mem_inputBytes {s : State} {n : Nat} {b : Byte} :
    b ∈ s.inputBytes n ↔ ∃ k, k < n ∧ s.ibufByte k = b := by
  simp [State.inputBytes]

/-- The input around its byte k. -/
theorem inputBytes_split (s : State) {n k : Nat} (hk : k < n) :
    ∃ after, s.inputBytes n = s.inputBytes k ++ s.ibufByte k :: after := by
  obtain ⟨m, rfl⟩ := Nat.exists_eq_add_of_lt hk
  refine ⟨(List.range m).map fun j => s.ibufByte (k + 1 + j), ?_⟩
  simp [State.inputBytes, Nat.add_right_comm k m 1, List.range_add, List.range_succ]

/-- Where every input byte has a code, PACK's bit string is the concatenation of the codes (R167). -/
theorem encodeBytes_inputBytes {s : State} {n : Nat}
    (h : ∀ k, k < n → (codeAt s.ctab (s.ibufByte k)).valid = true) :
    encodeBytes s.ctab 0 (s.inputBytes n) = .ok (s.codesOf (s.inputBytes n)) := by
  refine encodeBytes_ok _ _ _ fun b hb => ?_
  obtain ⟨k, hk, rfl⟩ := mem_inputBytes.1 hb
  exact h k hk

/-- The least index whose byte has no code is the one PACK reports (R166). -/
theorem encodeBytes_inputBytes_noCode {s : State} {n k : Nat} (hk : k < n)
    (hv : (codeAt s.ctab (s.ibufByte k)).valid = false)
    (h : ∀ j, j < k → (codeAt s.ctab (s.ibufByte j)).valid = true) :
    encodeBytes s.ctab 0 (s.inputBytes n) = .error (.noCode k) := by
  obtain ⟨after, hsplit⟩ := inputBytes_split s hk
  have hbefore : ∀ b ∈ s.inputBytes k, (codeAt s.ctab b).valid = true := fun b hb => by
    obtain ⟨j, hj, rfl⟩ := mem_inputBytes.1 hb
    exact h j hj
  rw [hsplit, encodeBytes_error _ _ _ _ _ hbefore hv, inputBytes_length, Nat.zero_add]

/-! ### The four completions of PACK (43_packer R165, R235) -/

/-- PACK completes with the result of its rule. -/
theorem exec_pack (s : State) : exec .pack s = .next (s.complete 4 (packResult s)) := rfl

theorem exec_pack_beyond_buffer {s : State} (h : s.ibufSize.toNat < s.inLen.toNat) :
    exec .pack s = .next (s.failed 4 .inputUnavailable 1 s.inLen) := by
  have hr : packResult s = .error (.inputBeyondBuffer s.inLen) := if_pos h
  rw [exec_pack, hr]
  rfl

section WithinBuffer
variable {s : State} (h : s.inLen.toNat ≤ s.ibufSize.toNat)
include h

theorem exec_pack_noCode {k : Nat}
    (he : encodeBytes s.ctab 0 (s.inputBytes s.inLen.toNat) = .error (.noCode k)) :
    exec .pack s = .next (s.failed 4 .unknownSymbol 1 (BitVec.ofNat 32 k)) := by
  have hr : packResult s = .error (.noCode k) := by
    rw [packResult, if_neg (Nat.not_lt.2 h), he]
  rw [exec_pack, hr]
  rfl

variable {bits : List Bool} (hb : encodeBytes s.ctab 0 (s.inputBytes s.inLen.toNat) = .ok bits)
include hb

theorem exec_pack_overflow (hfit : s.pbufSize.toNat < 4 + ceil8 bits.length) :
    exec .pack s = .next (s.failed 4 .capacity 1 (BitVec.ofNat 32 (4 + ceil8 bits.length))) := by
  have hr : packResult s = .error (.artifactOverflow (4 + ceil8 bits.length)) := by
    rw [packResult, if_neg (Nat.not_lt.2 h), hb]
    exact if_pos hfit
  rw [exec_pack, hr]
  rfl

theorem exec_pack_fits (hfit : 4 + ceil8 bits.length ≤ s.pbufSize.toNat) :
    exec .pack s = .next ((s.withArtifact bits).succeeded 4) := by
  have hr : packResult s = .ok (s.withArtifact bits) := by
    rw [packResult, if_neg (Nat.not_lt.2 h), hb]
    exact if_neg (Nat.not_lt.2 hfit)
  rw [exec_pack, hr, State.complete_ok]

end WithinBuffer

/-- Settles O39, one completion of PACK for each check that fails. -/
theorem packReportsFirstError : Obligations.PackReportsFirstError := by
  intro s _
  refine ⟨exec_pack_beyond_buffer, fun k h hk hv hbefore => ?_, fun bits h hv hbits hfit => ?_⟩
  · exact exec_pack_noCode h (encodeBytes_inputBytes_noCode hk hv hbefore)
  · subst hbits
    exact exec_pack_overflow h (encodeBytes_inputBytes hv) hfit

/-! ### The artifact PACK writes (30_encoding R97 to R99, 43_packer R167 to R173) -/

/-- PACK writes no byte outside the artifact (R171). -/
theorem State.withArtifact_readByte_outside (s : State) (bits : List Bool) {a : Nat}
    (ha : a < Config.pbufBase ∨ Config.pbufBase + (4 + ceil8 bits.length) ≤ a) :
    (s.withArtifact bits).readByte a = s.readByte a :=
  s.readByte_writeBytes_outside (artifact bits) (by rwa [artifact_length])

theorem State.withArtifact_pbufByte (s : State) (bits : List Bool) {k : Nat}
    (hk : k < (artifact bits).length) : (s.withArtifact bits).pbufByte k = (artifact bits)[k] :=
  s.readByte_writeBytes_inside _ k _ hk

/-- Every payload bit holds the bit of the string at its position, and 0 at or beyond the string's end
(R168). -/
theorem State.withArtifact_payload_bit (s : State) (bits : List Bool) {k : Nat}
    (hk : k < 8 * ceil8 bits.length) :
    ((s.withArtifact bits).pbufByte (4 + k / 8)).getLsbD (7 - k % 8) = bits.getD k false := by
  have hj : k / 8 < ceil8 bits.length := by omega
  rw [s.withArtifact_pbufByte bits (by rw [artifact_length]; omega), artifact_getElem_payload bits _ hj,
    payloadByte_bit _ _ _ (Nat.mod_lt k (by decide)), Nat.div_add_mod]

/-- The header spells the number of bits, where it fits a word (R98). -/
theorem State.withArtifact_headerBits (s : State) {bits : List Bool} (hbits : bits.length < 2 ^ 32) :
    (s.withArtifact bits).headerBits = bits.length := by
  have hbyte : ∀ k (hk : k < 4), (s.withArtifact bits).pbufByte k =
      (bytesBE (BitVec.ofNat 32 bits.length))[k]'hk := fun k hk => by
    rw [s.withArtifact_pbufByte bits (by rw [artifact_length]; omega)]
    exact List.getElem_append_left _
  rw [State.headerBits, hbyte 0 (by decide), hbyte 1 (by decide), hbyte 2 (by decide),
    hbyte 3 (by decide)]
  exact (bytesBE_value _).trans (by rw [BitVec.toNat_ofNat, Nat.mod_eq_of_lt hbits])

/-- A completion keeps the artifact. -/
theorem State.holdsArtifact_succeeded {s : State} {op : BitVec 4} {bits : List Bool} :
    (s.succeeded op).holdsArtifact bits ↔ s.holdsArtifact bits := Iff.rfl

section Fits
variable {s : State} {bits : List Bool} (hfit : 4 + ceil8 bits.length ≤ s.pbufSize.toNat)
include hfit

/-- PK_LEN loses nothing of the length of an artifact that fits PBUF (R173). -/
theorem State.withArtifact_pkLen_toNat : (s.withArtifact bits).pkLen.toNat = 4 + ceil8 bits.length := by
  rw [State.withArtifact_pkLen, BitVec.toNat_ofNat, Nat.mod_eq_of_lt (hfit.trans_lt s.pbufSize.isLt)]

/-- The number of bits of an artifact that fits PBUF fits a word (R8, R172). -/
theorem length_lt_of_fits (hs : s.sizesOk = true) : bits.length < 2 ^ 32 := by
  obtain ⟨_, hpbuf, _⟩ := s.sizesOk_iff.1 hs
  obtain ⟨_, _, hpbuf⟩ := (sizeOk_iff _).1 hpbuf
  have := (ceil8_spec bits.length).1
  omega

/-- BIT_LEN loses nothing of the number of bits of an artifact that fits PBUF (R169). -/
theorem State.withArtifact_bitLen_toNat (hs : s.sizesOk = true) :
    (s.withArtifact bits).bitLen.toNat = bits.length := by
  rw [State.withArtifact_bitLen, BitVec.toNat_ofNat, Nat.mod_eq_of_lt (length_lt_of_fits hfit hs)]

/-- What PACK leaves in PBUF is an artifact of its bit string. -/
theorem State.holdsArtifact_withArtifact (hs : s.sizesOk = true) :
    (s.withArtifact bits).holdsArtifact bits := by
  have hlen := State.withArtifact_pkLen_toNat hfit
  have hheader := s.withArtifact_headerBits (length_lt_of_fits hfit hs)
  refine ⟨hlen, hlen.trans_le hfit, hheader, fun k hk => ?_⟩
  exact s.withArtifact_payload_bit bits (hk.trans_le (ceil8_spec bits.length).1)

end Fits

/-- Settles O38: the padding bits lie in the payload and beyond the end of the bit string. -/
theorem packWritesArtifact : Obligations.PackWritesArtifact := by
  intro s bits hI h hv hbits hfit
  have hb : encodeBytes s.ctab 0 (s.inputBytes s.inLen.toNat) = .ok bits :=
    hbits ▸ encodeBytes_inputBytes hv
  have hart := State.holdsArtifact_withArtifact hfit hI.sizes
  refine ⟨_, exec_pack_fits h hb hfit, State.holdsArtifact_succeeded.2 hart,
    State.withArtifact_bitLen_toNat hfit hI.sizes, fun k hk hk' => ?_, fun a ha => ?_, rfl⟩
  · exact (s.withArtifact_payload_bit bits hk').trans (List.getD_eq_default _ _ hk)
  · rw [State.succeeded_pkLen, State.withArtifact_pkLen_toNat hfit] at ha
    exact s.withArtifact_readByte_outside bits ha

/-- Settles O40: the bit string of no bytes is empty, and PBUF always has room for a header. -/
theorem packOfNothing : Obligations.PackOfNothing := by
  intro s hs h
  obtain ⟨_, hpbuf, _⟩ := s.sizesOk_iff.1 hs
  have hroom := ((sizeOk_iff _).1 hpbuf).2.1
  have hb : encodeBytes s.ctab 0 (s.inputBytes s.inLen.toNat) = .ok [] := by rw [h]; rfl
  have hart : artifact [] = List.replicate 4 0 := by decide
  have hzero : ∀ k, k < 4 → (s.withArtifact []).pbufByte k = 0 := fun k hk => by
    rw [s.withArtifact_pbufByte [] (by simpa [hart] using hk)]
    simp only [hart, List.getElem_replicate]
  exact ⟨_, exec_pack_fits (by simp [h]) hb hroom, hzero 0 (by decide), hzero 1 (by decide),
    hzero 2 (by decide), hzero 3 (by decide), fun _ => s.withArtifact_readByte_outside [], rfl⟩

/-- Settles O41: only PACK's success writes bytes, and its artifact fits PBUF, so PK_LEN bounds them. -/
theorem packKeepsOtherBytes : Obligations.PackKeepsOtherBytes := by
  intro s t h a ha
  rcases exec_command_next (i := .pack) rfl h with ⟨u, hu, rfl⟩ | ⟨e, _, rfl⟩
  · cases writes_of_commandResult hu with
    | pack bits _ hfit =>
      rw [State.succeeded_pkLen, State.withArtifact_pkLen_toNat hfit] at ha
      exact s.withArtifact_readByte_outside bits (ha.resolve_left fun he => he rfl)
  · rfl

end Sys2Proof.Machine

/-! PROOFS. UNPACK: its completions, the walk over the codes of a tree, and the round trip of the pipeline; the
obligations of 44_unpacker. -/

namespace Sys2Proof.Machine

/-! ### The checks of UNPACK (44_unpacker R185, R187 to R189, R235) -/

/-- UNPACK completes with the result of its rule. -/
theorem exec_unpack (s : State) : exec .unpack s = .next (s.complete 5 (unpackResult s)) := rfl

theorem exec_unpack_of_error {s : State} {e : CmdError} (h : unpackResult s = .error e) :
    exec .unpack s = .next (s.failed 5 e.code e.sub e.pos) := by
  rw [exec_unpack, h, State.complete_error]

theorem exec_unpack_beyond_buffer {s : State} (h : s.pbufSize.toNat < s.pkLen.toNat) :
    exec .unpack s = .next (s.failed 5 .inputUnavailable 2 s.pkLen) :=
  exec_unpack_of_error (e := .artifactBeyondBuffer s.pkLen) (if_pos h)

section WithinBuffer
variable {s : State} (h : s.pkLen.toNat ≤ s.pbufSize.toNat)
include h

theorem exec_unpack_headerTruncated (h4 : s.pkLen.toNat < 4) :
    exec .unpack s = .next (s.failed 5 .corruptStream 1 s.pkLen) := by
  have hr : unpackResult s = .error (.headerTruncated s.pkLen) := by
    rw [unpackResult, if_neg (Nat.not_lt.2 h), if_pos h4]
  exact exec_unpack_of_error hr

theorem exec_unpack_payloadLength (h4 : 4 ≤ s.pkLen.toNat)
    (hlen : s.pkLen.toNat ≠ 4 + ceil8 s.headerBits) :
    exec .unpack s = .next (s.failed 5 .corruptStream 2 (BitVec.ofNat 32 s.headerBits)) := by
  have hr : unpackResult s = .error (.payloadLength s.headerBits) := by
    rw [unpackResult, if_neg (Nat.not_lt.2 h), if_neg (Nat.not_lt.2 h4), if_pos (by omega)]
  exact exec_unpack_of_error hr

variable (hlen : s.pkLen.toNat = 4 + ceil8 s.headerBits)
include hlen

/-- UNPACK of an artifact that passes the checks (R185, R189). -/
theorem unpackResult_of_checks : unpackResult s =
    if s.headerBits = 0 then .ok { s with outLen := 0, bitLen := 0 }
    else if s.treeValid then
      (decodeBytes s.node s.root s.dbufSize.toNat (s.artifactBits s.headerBits)).map
        fun out => s.withOutput out s.headerBits
    else .error .noTreeToWalk := by
  rw [unpackResult, if_neg (Nat.not_lt.2 h), if_neg (by omega), if_neg (by omega)]
  cases decodeBytes s.node s.root s.dbufSize.toNat (s.artifactBits s.headerBits) <;> rfl

theorem exec_unpack_without_tree (hb : 0 < s.headerBits) (hv : s.treeValid = false) :
    exec .unpack s = .next (s.failed 5 .notReady 2 0) := by
  have hr : unpackResult s = .error .noTreeToWalk := by
    rw [unpackResult_of_checks h hlen, if_neg hb.ne', hv, if_neg Bool.false_ne_true]
  exact exec_unpack_of_error hr

end WithinBuffer

/-- Settles O42, one completion of UNPACK for each check that fails. -/
theorem unpackChecksArtifact : Obligations.UnpackChecksArtifact := by
  intro s b hb
  subst hb
  exact ⟨exec_unpack_beyond_buffer, exec_unpack_headerTruncated, exec_unpack_payloadLength,
    exec_unpack_without_tree⟩

/-! ### The artifact UNPACK reads (30_encoding R97 to R99, 44_unpacker R185) -/

section Artifact
variable {s : State} {bits : List Bool} (h : s.holdsArtifact bits)
include h

theorem State.holdsArtifact.headerBits : s.headerBits = bits.length := by
  obtain ⟨_, _, hheader, _⟩ := h
  exact hheader

theorem State.holdsArtifact.artifactBits : s.artifactBits bits.length = bits := by
  obtain ⟨_, _, _, hbits⟩ := h
  refine List.ext_getElem (by simp [State.artifactBits]) fun k _ hk => ?_
  rw [← List.getD_eq_getElem bits false hk, ← hbits k hk]
  simp [State.artifactBits, State.artifactBit]

/-- An artifact passes the checks of UNPACK (R187, R188). -/
theorem State.holdsArtifact.checks :
    s.pkLen.toNat ≤ s.pbufSize.toNat ∧ s.pkLen.toNat = 4 + ceil8 s.headerBits := by
  rw [h.headerBits]
  obtain ⟨hlen, hfit, _, _⟩ := h
  exact ⟨hfit, hlen⟩

/-- With a tree UNPACK writes what the bits decode to (R185). -/
theorem unpackResult_of_holdsArtifact (hv : s.treeValid = true) : unpackResult s =
    (decodeBytes s.node s.root s.dbufSize.toNat bits).map fun out => s.withOutput out bits.length := by
  rw [unpackResult_of_checks h.checks.1 h.checks.2, h.headerBits, h.artifactBits, if_pos hv]
  split
  · next hb =>
    obtain rfl := List.length_eq_zero_iff.1 hb
    simp only [decodeBytes, bitWalk, if_true]
    rfl
  · rfl

theorem exec_unpack_decoded (hv : s.treeValid = true) {out : List Byte}
    (hout : decodeBytes s.node s.root s.dbufSize.toNat bits = .ok out) :
    exec .unpack s = .next ((s.withOutput out bits.length).succeeded 5) := by
  rw [exec_unpack, unpackResult_of_holdsArtifact h hv, hout]
  rfl

theorem exec_unpack_undecoded (hv : s.treeValid = true) {e : CmdError}
    (he : decodeBytes s.node s.root s.dbufSize.toNat bits = .error e) :
    exec .unpack s = .next (s.failed 5 e.code e.sub e.pos) := by
  refine exec_unpack_of_error ?_
  rw [unpackResult_of_holdsArtifact h hv, he]
  rfl

end Artifact

/-- Settles O43: no bit is read, so no tree is asked for. -/
theorem unpackOfNothing : Obligations.UnpackOfNothing := by
  intro s h
  have hr : unpackResult s = .ok { s with outLen := 0, bitLen := 0 } := by
    rw [unpackResult_of_checks h.checks.1 h.checks.2, if_pos (h.headerBits.trans List.length_nil)]
  rw [exec_unpack, hr, State.complete_ok]

/-! ### What UNPACK writes and reads (44_unpacker R194, R195) -/

/-- A command that completes without an error has written what its rule writes. -/
theorem writes_of_exec_ok {i : Instr} {s t : State} (hi : i.isCommand = true) (h : exec i s = .next t)
    (hok : t.lastErr = .ok) : ∃ u, s.Writes i u ∧ t = u.succeeded (commandOp i) := by
  rcases exec_command_next hi h with ⟨u, hu, rfl⟩ | ⟨e, _, rfl⟩
  · exact ⟨u, writes_of_commandResult hu, rfl⟩
  · exact absurd hok e.sub_listed.1

/-- OUT_LEN loses nothing of the length of an output that fits DBUF (R29). -/
theorem State.withOutput_outLen_toNat {s : State} {out : List Byte} {n : Nat}
    (h : out.length ≤ s.dbufSize.toNat) : (s.withOutput out n).outLen.toNat = out.length := by
  rw [State.withOutput_outLen, BitVec.toNat_ofNat, Nat.mod_eq_of_lt (h.trans_lt s.dbufSize.isLt)]

theorem State.withOutput_readByte_outside (s : State) (out : List Byte) (n : Nat) {a : Nat}
    (ha : a < Config.dbufBase ∨ Config.dbufBase + out.length ≤ a) :
    (s.withOutput out n).readByte a = s.readByte a :=
  s.readByte_writeBytes_outside out ha

theorem State.withOutput_dbufByte (s : State) (out : List Byte) (n : Nat) {k : Nat} (hk : k < out.length) :
    (s.withOutput out n).dbufByte k = out[k] :=
  s.readByte_writeBytes_inside _ k out hk

/-- UNPACK writes an output that fits DBUF, the empty one where there is no bit (R185, R189). -/
theorem withOutput_of_unpack_writes {s u : State} (h : s.Writes .unpack u) :
    ∃ out b, out.length ≤ s.dbufSize.toNat ∧ u = s.withOutput out b := by
  cases h with
  | unpackEmpty _ => exact ⟨[], 0, Nat.zero_le _, rfl⟩
  | unpack out b _ hout => exact ⟨out, b, decodeBytes_length hout, rfl⟩

/-- Settles O44: only UNPACK's success writes bytes, and its output fits DBUF, so OUT_LEN bounds them. -/
theorem unpackKeepsOtherBytes : Obligations.UnpackKeepsOtherBytes := by
  intro s t h
  rcases exec_command_next (i := .unpack) rfl h with ⟨u, hu, rfl⟩ | ⟨e, _, rfl⟩
  · obtain ⟨out, b, hfit, rfl⟩ := withOutput_of_unpack_writes (writes_of_commandResult hu)
    refine ⟨fun a ha => ?_, fun _ => rfl, rfl, rfl⟩
    rw [State.succeeded_outLen, State.withOutput_outLen_toNat hfit] at ha
    exact s.withOutput_readByte_outside out b (ha.resolve_left fun he => he rfl)
  · exact ⟨fun _ _ => rfl, fun hok => absurd hok e.sub_listed.1, rfl, rfl⟩

/-- Of the memory UNPACK reads the header and the logical bits alone: another memory with the same gives
the same error, or the same output (R194). -/
theorem unpackResult_memory {s : State} {m : Memory}
    (hheader : State.headerBits { s with mem := m } = s.headerBits)
    (hbits : State.artifactBits { s with mem := m } s.headerBits = s.artifactBits s.headerBits) :
    (∃ e, unpackResult s = .error e ∧ unpackResult { s with mem := m } = .error e)
      ∨ ∃ out b, unpackResult s = .ok (s.withOutput out b)
          ∧ unpackResult { s with mem := m } = .ok (State.withOutput { s with mem := m } out b) := by
  simp only [unpackResult, hheader, hbits]
  split_ifs
  · exact .inl ⟨_, rfl, rfl⟩
  · exact .inl ⟨_, rfl, rfl⟩
  · exact .inl ⟨_, rfl, rfl⟩
  · exact .inr ⟨[], 0, rfl, rfl⟩
  · cases decodeBytes s.node s.root s.dbufSize.toNat (s.artifactBits s.headerBits) with
    | error e => exact .inl ⟨e, rfl, rfl⟩
    | ok out => exact .inr ⟨out, s.headerBits, rfl, rfl⟩
  · exact .inl ⟨_, rfl, rfl⟩

/-- Settles O45: the two states agree on all of the memory that UNPACK reads. -/
theorem unpackIgnoresPadding : Obligations.UnpackIgnoresPadding := by
  intro s s' t t' hs hheader hbits ht ht'
  generalize s'.mem = m at hs
  subst hs
  have hB : State.headerBits { s with mem := m } = s.headerBits := by
    simp only [State.headerBits, hheader 0 (by decide), hheader 1 (by decide), hheader 2 (by decide),
      hheader 3 (by decide)]
  have hA : State.artifactBits { s with mem := m } s.headerBits = s.artifactBits s.headerBits :=
    List.map_congr_left fun k hk => hbits k (List.mem_range.1 hk)
  rw [exec_unpack, Host.Outcome.next.injEq] at ht ht'
  subst ht ht'
  rcases unpackResult_memory hB hA with ⟨e, he, he'⟩ | ⟨out, b, ho, ho'⟩
  · rw [he, he']
    exact ⟨rfl, fun hok => absurd hok e.sub_listed.1⟩
  · rw [ho, ho']
    refine ⟨rfl, fun _ k hk => ?_⟩
    have hk : k < out.length := hk.trans_le (BitVec.toNat_ofNat _ _ ▸ Nat.mod_le _ _)
    exact (State.withOutput_dbufByte _ out b hk).trans (s.withOutput_dbufByte out b hk).symm

/-! ### The walk over the bits (44_unpacker R190 to R193) -/

/-- The codes of these symbols in a table, concatenated in order (R167). -/
def codesIn (t : CodeMem) (symbols : List Byte) : List Bool := symbols.flatMap fun x => (codeAt t x).bits

theorem State.codesOf_eq (s : State) (symbols : List Byte) : s.codesOf symbols = codesIn s.ctab symbols := rfl

theorem codesIn_cons (t : CodeMem) (x : Byte) (xs : List Byte) :
    codesIn t (x :: xs) = (codeAt t x).bits ++ codesIn t xs := List.flatMap_cons

section Decode
variable {nodes : NodeMem} {root : NodeIdx} {room : Nat} {bits : List Bool} {out : List Byte}

theorem decodeBytes_of_walk_root (h : bitWalk nodes root room 0 root [] bits = .ok (root, out)) :
    decodeBytes nodes root room bits = .ok out := by
  simp [decodeBytes, h]

/-- A walk that ends below ROOT has ended in the middle of a code (R192). -/
theorem decodeBytes_of_walk_below {n : NodeIdx} (h : bitWalk nodes root room 0 root [] bits = .ok (n, out))
    (hn : n ≠ root) : decodeBytes nodes root room bits = .error (.midCode bits.length) := by
  simp [decodeBytes, h, hn]

theorem decodeBytes_of_walk_error {e : CmdError} (h : bitWalk nodes root room 0 root [] bits = .error e) :
    decodeBytes nodes root room bits = .error e := by
  simp [decodeBytes, h]

/-- Of the errors over the bits only the one at their end is not the walk's (R191 to R193). -/
theorem walk_error_of_decodeBytes {e : CmdError} (h : decodeBytes nodes root room bits = .error e) :
    e = .midCode bits.length ∨ bitWalk nodes root room 0 root [] bits = .error e := by
  unfold decodeBytes at h
  split at h
  · next e' he => exact .inr (Except.error.inj h ▸ he)
  · split at h
    · simp at h
    · exact .inl (Except.error.inj h).symm

end Decode

section Walk
variable {nodes : NodeMem} {root : NodeIdx} {room : Nat} (hT : TreeShape nodes root)
include hT

/-- A path that has not reached a leaf gives no symbol (R190). -/
theorem TreeShape.bitWalk_inner {t : Nat} {n m : NodeIdx} {out : List Byte} {p : List Bool}
    (hp : follow nodes n p = some m) (hm : (nodeAt nodes m).leaf = false) :
    bitWalk nodes root room t n out p = .ok (m, out) := by
  induction p generalizing t n with
  | nil =>
    obtain rfl : n = m := by simpa [follow] using hp
    rfl
  | cons b bs ih =>
    rw [follow_cons] at hp
    split_ifs at hp with hnil
    have hc : (nodeAt nodes (childOf (nodeAt nodes n) b)).leaf = false := by
      by_contra hc
      obtain ⟨_, rfl⟩ := hT.follow_leaf (hT.isLeaf_of_leaf (by simpa using hc)) hp
      exact hc hm
    simp only [bitWalk, hnil, hc, if_false, Bool.false_eq_true]
    exact ih hp

/-- The last bit of a path to a leaf gives the leaf's symbol, and the walk goes on at ROOT (R190); where
there is no room for the symbol, that bit is the error's (R193). -/
theorem TreeShape.bitWalk_leaf {t : Nat} {n m : NodeIdx} {out : List Byte} {p : List Bool} {b : Bool}
    (hp : follow nodes n (p ++ [b]) = some m) (hm : isLeaf nodes m) :
    bitWalk nodes root room t n out (p ++ [b]) =
      if out.length = room then .error (.outputOverflow (t + p.length))
      else .ok (root, out ++ [(nodeAt nodes m).symbol]) := by
  obtain ⟨k, hk, rfl, hnil⟩ := follow_concat_eq_some hp
  have hinner : (nodeAt nodes k).leaf = false := (hT.isChild_childOf hnil).1.2
  rw [bitWalk_append, hT.bitWalk_inner hk hinner]
  simp only [bitWalk, hnil, hm.2, if_false, if_true]

/-- The leaf that a symbol names holds that symbol (R38). -/
theorem TreeShape.leaf_symbol {x : Byte} (hx : isLeaf nodes (x.setWidth 9)) :
    (nodeAt nodes (x.setWidth 9)).symbol = x :=
  symbol_setWidth_inj (hT.leaf_idx hx)

/-- With both children of ROOT present no bit leads to an absent child, so the walk can only run out of
room (R191, R193). -/
theorem TreeShape.bitWalk_error (hright : (nodeAt nodes root).right ≠ Config.nilIdx) {t : Nat} {n : NodeIdx}
    {out : List Byte} {bits : List Bool} {e : CmdError} (hn : isInternal nodes n)
    (h : bitWalk nodes root room t n out bits = .error e) : ∃ u, e = .outputOverflow u := by
  induction bits generalizing t n out with
  | nil => simp [bitWalk] at h
  | cons b bs ih =>
    have hnil : childOf (nodeAt nodes n) b ≠ Config.nilIdx := by
      by_cases hroot : n = root
      · subst hroot
        cases b with
        | false => exact ne_nilIdx_of_lt (hT.left_child n hn).2
        | true => exact hright
      · exact hT.childOf_ne_nil hn hroot b
    simp only [bitWalk, hnil, if_false] at h
    split_ifs at h with hleaf hfull
    · exact ⟨t, (Except.error.inj h).symm⟩
    · exact ih hT.root_internal h
    · exact ih ⟨(hT.childOf_lower hnil).1, by simpa using hleaf⟩ h

variable {table : CodeMem} (ht : TableOk nodes root table)
include ht

/-- The code of a symbol gives the symbol (R190), or CAPACITY at its last bit (R193). -/
theorem TreeShape.bitWalk_code {x : Byte} (hx : (codeAt table x).valid = true) (t : Nat) (out : List Byte) :
    bitWalk nodes root room t root out (codeAt table x).bits =
      if out.length = room then .error (.outputOverflow (t + (codeAt table x).bits.length - 1))
      else .ok (root, out ++ [x]) := by
  have hleaf := (ht.valid_iff x).1 hx
  have hlen := (ht.length x hx).1
  have hpath := ht.path x hx
  rcases List.eq_nil_or_concat' (codeAt table x).bits with hp | ⟨p, b, hp⟩
  · simp [hp] at hlen
  · rw [hp] at hpath ⊢
    rw [hT.bitWalk_leaf hpath hleaf, hT.leaf_symbol hleaf, List.length_append, List.length_singleton]
    rfl

/-- The concatenated codes of symbols that DBUF has room for give the symbols (R190). -/
theorem TreeShape.bitWalk_codes {symbols : List Byte} (hv : ∀ x ∈ symbols, (codeAt table x).valid = true)
    (t : Nat) {out : List Byte} (hroom : out.length + symbols.length ≤ room) :
    bitWalk nodes root room t root out (codesIn table symbols) = .ok (root, out ++ symbols) := by
  induction symbols generalizing t out with
  | nil => simp [codesIn, bitWalk]
  | cons x xs ih =>
    rw [List.length_cons] at hroom
    rw [codesIn_cons, bitWalk_append, hT.bitWalk_code ht (hv x (by simp)), if_neg (by omega)]
    simpa using ih (fun y hy => hv y (by simp [hy])) (t + (codeAt table x).bits.length)
      (out := out ++ [x]) (by simp; omega)

/-- A bit string that ends in the middle of a code leads to a record that is no leaf (R153). -/
theorem TreeShape.follow_code_part {x : Byte} {part : List Bool} (hx : (codeAt table x).valid = true)
    (hpre : part <+: (codeAt table x).bits) (hne : part ≠ (codeAt table x).bits) :
    ∃ m, follow nodes root part = some m ∧ (nodeAt nodes m).leaf = false := by
  obtain ⟨rest, hrest⟩ := hpre
  have hpath := ht.path x hx
  rw [← hrest, follow_append] at hpath
  obtain ⟨m, hm, hmrest⟩ := Option.bind_eq_some_iff.1 hpath
  refine ⟨m, hm, ?_⟩
  by_contra hleaf
  obtain ⟨rfl, _⟩ := hT.follow_leaf (hT.isLeaf_of_leaf (by simpa using hleaf)) hmrest
  exact hne (by simpa using hrest)

variable {symbols : List Byte} (hs : ∀ x ∈ symbols, (codeAt table x).valid = true)
include hs

theorem TreeShape.decodeBytes_codes (hroom : symbols.length ≤ room) :
    decodeBytes nodes root room (codesIn table symbols) = .ok symbols :=
  decodeBytes_of_walk_root (hT.bitWalk_codes ht hs 0 (out := []) (by simpa using hroom))

/-- After the codes the walk goes on at ROOT (R190). -/
theorem TreeShape.bitWalk_codes_append (hroom : symbols.length ≤ room) (bits : List Bool) :
    bitWalk nodes root room 0 root [] (codesIn table symbols ++ bits) =
      bitWalk nodes root room (codesIn table symbols).length root symbols bits := by
  rw [bitWalk_append, hT.bitWalk_codes ht hs 0 (out := []) (by simpa using hroom)]
  simp only [List.nil_append, Nat.zero_add]

/-- After the codes comes a part of a code: the walk ends below ROOT (R192). -/
theorem TreeShape.decodeBytes_codes_part (hroom : symbols.length ≤ room) {x : Byte} {part : List Bool}
    (hx : (codeAt table x).valid = true) (hpre : part <+: (codeAt table x).bits) (hnil : part ≠ [])
    (hne : part ≠ (codeAt table x).bits) :
    decodeBytes nodes root room (codesIn table symbols ++ part) =
      .error (.midCode (codesIn table symbols ++ part).length) := by
  obtain ⟨m, hm, hleaf⟩ := hT.follow_code_part ht hx hpre hne
  have hbelow : m ≠ root := fun hroot => hnil (hT.path_to_root (hroot ▸ hm))
  refine decodeBytes_of_walk_below (n := m) (out := symbols) ?_ hbelow
  rw [hT.bitWalk_codes_append ht hs hroom]
  exact hT.bitWalk_inner hm hleaf

/-- The codes fill DBUF: the last bit of one more code is the error's, whatever comes after it (R193). -/
theorem TreeShape.decodeBytes_codes_overflow (hroom : symbols.length = room) {x : Byte} (rest : List Bool)
    (hx : (codeAt table x).valid = true) :
    decodeBytes nodes root room (codesIn table symbols ++ (codeAt table x).bits ++ rest) =
      .error (.outputOverflow ((codesIn table symbols).length + (codeAt table x).bits.length - 1)) := by
  refine decodeBytes_of_walk_error ?_
  rw [List.append_assoc, hT.bitWalk_codes_append ht hs hroom.le, bitWalk_append, hT.bitWalk_code ht hx,
    if_pos hroom]

/-- The codes are followed by the bit of an absent child of ROOT (R191). -/
theorem TreeShape.decodeBytes_codes_absent (hroom : symbols.length ≤ room) {b : Bool} (rest : List Bool)
    (hb : childOf (nodeAt nodes root) b = Config.nilIdx) :
    decodeBytes nodes root room (codesIn table symbols ++ b :: rest) =
      .error (.absentChild (codesIn table symbols).length) := by
  refine decodeBytes_of_walk_error ?_
  rw [hT.bitWalk_codes_append ht hs hroom]
  simp only [bitWalk, hb, if_true]

end Walk

/-! ### UNPACK of codes (44_unpacker R190, R192, R193) -/

/-- The number of bits of an artifact fits a word, its header (R98). -/
theorem State.holdsArtifact.length_lt {s : State} {bits : List Bool} (h : s.holdsArtifact bits) :
    bits.length < 2 ^ 32 := by
  rw [← h.headerBits, State.headerBits]
  have := (s.pbufByte 0).isLt
  have := (s.pbufByte 1).isLt
  have := (s.pbufByte 2).isLt
  have := (s.pbufByte 3).isLt
  omega

/-- UNPACK of an artifact that decodes: DBUF and OUT_LEN hold the output, BIT_LEN the number of bits, and
nothing else changes (R185, R195). -/
theorem exec_unpack_output {s : State} {bits : List Bool} {out : List Byte} (h : s.holdsArtifact bits)
    (hv : s.treeValid = true) (hout : decodeBytes s.node s.root s.dbufSize.toNat bits = .ok out) :
    ∃ t, exec .unpack s = .next t ∧ t.outLen.toNat = out.length ∧ t.bitLen.toNat = bits.length
      ∧ (∀ k, k < out.length → t.dbufByte k = out.getD k 0)
      ∧ (∀ a, a < Config.dbufBase ∨ Config.dbufBase + out.length ≤ a → t.readByte a = s.readByte a)
      ∧ t = ({ s with mem := t.mem, outLen := t.outLen, bitLen := t.bitLen } : State).succeeded 5 := by
  refine ⟨_, exec_unpack_decoded h hv hout, ?_, ?_, fun k hk => ?_,
    fun a => s.withOutput_readByte_outside out bits.length, rfl⟩
  · rw [State.succeeded_outLen, State.withOutput_outLen_toNat (decodeBytes_length hout)]
  · rw [State.succeeded_bitLen, State.withOutput_bitLen, BitVec.toNat_ofNat, Nat.mod_eq_of_lt h.length_lt]
  · rw [List.getD_eq_getElem _ _ hk]
    exact s.withOutput_dbufByte out bits.length hk

/-- A table is valid only beside a tree (R45). -/
theorem State.Inv.treeValid_of_ctValid {s : State} (h : s.Inv) (hc : s.ctValid = true) :
    s.treeValid = true := by
  have hcodes := h.codes
  simp only [State.codesOk, hc, if_true] at hcodes
  exact hcodes.1

/-- Settles O46: each code leads from ROOT to its symbol's leaf, and the walk starts again at ROOT. -/
theorem unpackDecodesCodes : Obligations.UnpackDecodesCodes := by
  intro s symbols hI hc hs h hroom
  obtain ⟨hT, ht⟩ := hI.tree_and_table hc
  simp only [State.codesOf_eq] at h ⊢
  exact exec_unpack_output h (hI.treeValid_of_ctValid hc) (hT.decodeBytes_codes ht hs hroom)

/-- Settles O47: a part of a code, not empty, leads to a record below ROOT that is no leaf. -/
theorem unpackMidCode : Obligations.UnpackMidCode := by
  intro s symbols x part hI hc hs hx hpre hnil hne h hroom
  obtain ⟨hT, ht⟩ := hI.tree_and_table hc
  have he := hT.decodeBytes_codes_part ht hs hroom hx hpre hnil hne
  rw [State.codesOf_eq] at h ⊢
  rw [← List.length_append]
  exact exec_unpack_undecoded h (hI.treeValid_of_ctValid hc) he

/-- Settles O48: DBUF is full when the last bit of the next code asks for room. -/
theorem unpackOutputOverflow : Obligations.UnpackOutputOverflow := by
  intro s symbols x rest hI hc hs hx h hroom
  obtain ⟨hT, ht⟩ := hI.tree_and_table hc
  have he := hT.decodeBytes_codes_overflow ht hs hroom rest hx
  rw [State.codesOf_eq] at h ⊢
  exact exec_unpack_undecoded h (hI.treeValid_of_ctValid hc) he

/-! ### Absent children (44_unpacker R191) -/

/-- In the single-symbol tree the table has the code 0 (R134). -/
theorem TreeShape.exists_code_zero {nodes : NodeMem} {root : NodeIdx} {table : CodeMem}
    (hT : TreeShape nodes root) (ht : TableOk nodes root table)
    (hright : (nodeAt nodes root).right = Config.nilIdx) :
    ∃ x, (codeAt table x).valid = true ∧ (codeAt table x).bits = [false] := by
  obtain ⟨_, hleaf⟩ := hT.one_child root hT.root_internal hright
  have hleft : (nodeAt nodes root).left ≠ Config.nilIdx :=
    ne_nilIdx_of_lt (hT.left_child root hT.root_internal).2
  have hpath : follow nodes root [false] = some (nodeAt nodes root).left := by simp [follow, hleft]
  have hidx := hT.leaf_idx hleaf
  have hx := (ht.valid_iff _).2 (hidx ▸ hleaf)
  exact ⟨_, hx, hT.path_unique (ht.path _ hx) (hidx.symm ▸ hpath)⟩

/-- Sub-cause 3 of CORRUPT_STREAM is the absent child's alone (R105). -/
theorem CmdError.eq_absentChild {e : CmdError} (hc : e.code = .corruptStream) (hs : e.sub = 3) :
    ∃ u, e = .absentChild u := by
  cases e with
  | absentChild u => exact ⟨u, rfl⟩
  | headerTruncated _ | payloadLength _ | midCode _ => simp [CmdError.sub] at hs
  | _ => simp [CmdError.code] at hc

/-- UNPACK reports an absent child only where the bits of the artifact do not decode. -/
theorem decodeBytes_of_absentChild {s : State} {u : Nat} (hr : unpackResult s = .error (.absentChild u)) :
    decodeBytes s.node s.root s.dbufSize.toNat (s.artifactBits s.headerBits) =
      .error (.absentChild u) := by
  unfold unpackResult at hr
  dsimp only at hr
  split_ifs at hr
  · simp at hr
  · simp at hr
  · simp at hr
  · split at hr
    · simp at hr
    · next e he => rw [he, Except.error.inj hr]
  · simp at hr

/-- Settles O49: in the single-symbol tree the bits before the first 1 are codes of its symbol. -/
theorem unpackAbsentChild : Obligations.UnpackAbsentChild := by
  intro s hI hv
  have hT := hI.treeShape hv
  refine ⟨fun k rest hright h hk => ?_, fun hright t h => ?_⟩
  · obtain ⟨table, hgen⟩ := Option.isSome_iff_exists.1 (genTable_isSome hT)
    have ht := tableOk_genTable hT hgen
    obtain ⟨x, hx, hbits⟩ := hT.exists_code_zero ht hright
    have he := hT.decodeBytes_codes_absent ht (symbols := List.replicate k x) (b := true)
      (fun y hy => List.eq_of_mem_replicate hy ▸ hx) (by simpa using hk) rest hright
    have hcodes : codesIn table (List.replicate k x) = List.replicate k false := by
      simp [codesIn, List.flatMap_replicate, hbits]
    rw [hcodes, List.length_replicate] at he
    exact exec_unpack_undecoded h hv he
  · rintro ⟨hcode, hsub⟩
    rcases exec_command_next (i := .unpack) rfl h with ⟨u, _, rfl⟩ | ⟨e, he, rfl⟩
    · simp at hcode
    · obtain ⟨u, rfl⟩ := CmdError.eq_absentChild hcode hsub
      have hwalk := (walk_error_of_decodeBytes (decodeBytes_of_absentChild (Option.some.inj he))).resolve_left
        (by simp)
      obtain ⟨u', hu'⟩ := hT.bitWalk_error hright hT.root_internal hwalk
      simp at hu'

/-! ### The round trip (44_unpacker R196) -/

/-- The first IN_LEN bytes of IBUF are these, and COUNT and PACK can read them (R93). -/
structure State.HasInput (s : State) (bytes : List Byte) : Prop where
  sizes : s.sizesOk = true
  fits : s.inLen.toNat ≤ s.ibufSize.toNat
  input : s.inputBytes s.inLen.toNat = bytes

theorem State.HasInput.length {s : State} {bytes : List Byte} (h : s.HasInput bytes) :
    bytes.length = s.inLen.toNat := by
  rw [← h.input, inputBytes_length]

/-- A command keeps the input of COUNT and PACK. -/
theorem State.HasInput.command {s t : State} {bytes : List Byte} (h : s.HasInput bytes) {i : Instr}
    (hi : i.isCommand = true) (he : exec i s = .next t) : t.HasInput bytes := by
  have hK := exec_command_keepsHost hi he
  have hfits := h.fits
  refine ⟨?_, ?_, ?_⟩
  · rw [← h.sizes]
    simp only [State.sizesOk, hK.ibufSize, hK.pbufSize, hK.dbufSize]
  · rwa [hK.inLen, hK.ibufSize]
  · rw [hK.inLen, ← h.input]
    exact List.map_congr_left fun k hk =>
      exec_command_ibufByte hi h.sizes he ((List.mem_range.1 hk).trans_le hfits)

/-- The input of a COUNT that succeeds lies in IBUF (R120). -/
theorem hasInput_of_count_ok {s t : State} (hs : s.sizesOk = true) (h : exec .count s = .next t)
    (hok : t.lastErr = .ok) : s.HasInput (s.inputBytes s.inLen.toNat) := by
  refine ⟨hs, Nat.not_lt.1 fun hlen => ?_, rfl⟩
  rw [exec_count_beyond_buffer hlen, Host.Outcome.next.injEq] at h
  simp [← h] at hok

/-- A BUILD that succeeds leaves a tree (R138). -/
theorem treeShape_of_build_ok {s t : State} (h : exec .build s = .next t) (hok : t.lastErr = .ok) :
    t.treeValid = true ∧ TreeShape t.node t.root := by
  obtain ⟨u, hu, rfl⟩ := writes_of_exec_ok rfl h hok
  cases hu with
  | build h0 => exact ⟨rfl, treeShape_buildNodes h0⟩

/-- A GEN that succeeds leaves the table of the tree, and the tree (R150). -/
theorem tableOk_of_gen_ok {s t : State} (hT : TreeShape s.node s.root) (h : exec .gen s = .next t)
    (hok : t.lastErr = .ok) :
    t.treeValid = s.treeValid ∧ t.node = s.node ∧ t.root = s.root ∧ TableOk s.node s.root t.ctab := by
  obtain ⟨u, hu, rfl⟩ := writes_of_exec_ok rfl h hok
  cases hu with
  | gen table _ ht => exact ⟨rfl, rfl, rfl, tableOk_genTable hT ht⟩

/-- PACK makes a bit string only of bytes that all have a code (R166). -/
theorem valid_of_encodeBytes_ok {t : CodeMem} {i : Nat} {bytes : List Byte} {bits : List Bool}
    (h : encodeBytes t i bytes = .ok bits) : ∀ b ∈ bytes, (codeAt t b).valid = true := by
  induction bytes generalizing i bits with
  | nil => simp
  | cons b bs ih =>
    rw [encodeBytes] at h
    split_ifs at h with hb
    split at h
    · next rest hrest => simpa [hb] using ih hrest
    · simp at h

/-- A PACK that succeeds leaves an artifact of the codes of its input, and the tree (R165, R167). -/
theorem holdsArtifact_of_pack_ok {s t : State} {bytes : List Byte} (hin : s.HasInput bytes)
    (h : exec .pack s = .next t) (hok : t.lastErr = .ok) :
    (∀ b ∈ bytes, (codeAt s.ctab b).valid = true) ∧ t.holdsArtifact (codesIn s.ctab bytes)
      ∧ t.treeValid = s.treeValid ∧ t.node = s.node ∧ t.root = s.root := by
  obtain ⟨u, hu, rfl⟩ := writes_of_exec_ok rfl h hok
  cases hu with
  | pack bits hbits hfit =>
    rw [hin.input] at hbits
    have hv := valid_of_encodeBytes_ok hbits
    obtain rfl := Except.ok.inj ((encodeBytes_ok s.ctab 0 bytes hv).symm.trans hbits)
    refine ⟨hv, ?_, rfl, rfl, rfl⟩
    exact State.holdsArtifact_succeeded.2 (State.holdsArtifact_withArtifact hfit hin.sizes)

/-- An artifact is its bytes, below PK_LEN (R97). -/
theorem State.holdsArtifact.congr {s t : State} {bits : List Bool} (h : s.holdsArtifact bits)
    (hlen : t.pkLen = s.pkLen) (hsize : t.pbufSize = s.pbufSize)
    (hb : ∀ k, k < s.pkLen.toNat → t.pbufByte k = s.pbufByte k) : t.holdsArtifact bits := by
  obtain ⟨hpk, hfit, hheader, hbits⟩ := h
  refine ⟨hlen ▸ hpk, hlen ▸ hsize ▸ hfit, ?_, fun k hk => ?_⟩
  · rw [hb 0 (by omega), hb 1 (by omega), hb 2 (by omega), hb 3 (by omega)]
    exact hheader
  · rw [hb _ (by omega)]
    exact hbits k hk

/-- COUNT of no byte clears HIST (R120). -/
theorem exec_count_of_no_input {s t : State} (hin : s.HasInput []) (h : exec .count s = .next t) :
    t.lastErr = .ok ∧ ∀ x, histAt t.hist x = 0 := by
  rw [exec_count_within_buffer hin.fits, Host.Outcome.next.injEq] at h
  subst h
  refine ⟨rfl, fun x => ?_⟩
  rw [State.succeeded_hist, State.counted_hist, hin.input]
  exact histAt_emptyHist x

/-- PACK of no byte needs no code, and PBUF always has room for a header (R8, R170). -/
theorem exec_pack_of_no_input {s t : State} (hin : s.HasInput []) (h : exec .pack s = .next t) :
    t.lastErr = .ok ∧ t.holdsArtifact [] := by
  obtain ⟨_, hpbuf, _⟩ := s.sizesOk_iff.1 hin.sizes
  have hroom : 4 + ceil8 ([] : List Bool).length ≤ s.pbufSize.toNat := ((sizeOk_iff _).1 hpbuf).2.1
  have hb : encodeBytes s.ctab 0 (s.inputBytes s.inLen.toNat) = .ok [] := by rw [hin.input]; rfl
  rw [exec_pack_fits hin.fits hb hroom, Host.Outcome.next.injEq] at h
  subst h
  exact ⟨rfl, State.holdsArtifact_succeeded.2 (State.holdsArtifact_withArtifact hroom hin.sizes)⟩

/-- Settles O50: PACK leaves the codes of the input in the table of the tree that UNPACK walks; of no input it
leaves an artifact without bits. -/
theorem roundTripOfPipeline : Obligations.RoundTripOfPipeline := by
  refine ⟨?_, ?_⟩
  · intro s s₁ s₂ s₃ s₄ s₅ hs hroom h₁ hok₁ h₂ hok₂ h₃ hok₃ h₄ hok₄
      hpk hnode hroot htree hpbuf hdbuf hbytes
    have hin := hasInput_of_count_ok hs h₁ hok₁
    have hin₃ := ((hin.command rfl h₁).command rfl h₂).command rfl h₃
    obtain ⟨hv, hT⟩ := treeShape_of_build_ok h₂ hok₂
    obtain ⟨htree₃, hnode₃, hroot₃, ht⟩ := tableOk_of_gen_ok hT h₃ hok₃
    obtain ⟨hcodes, hart, htree₄, hnode₄, hroot₄⟩ := holdsArtifact_of_pack_ok hin₃ h₄ hok₄
    have hdbuf₅ : s₅.dbufSize = s.dbufSize := by
      rw [hdbuf, (exec_command_keepsHost rfl h₄).dbufSize, (exec_command_keepsHost rfl h₃).dbufSize,
        (exec_command_keepsHost rfl h₂).dbufSize, (exec_command_keepsHost rfl h₁).dbufSize]
    have hroom₅ : (s.inputBytes s.inLen.toNat).length ≤ s₅.dbufSize.toNat := by
      rwa [hin.length, hdbuf₅]
    have hout : decodeBytes s₅.node s₅.root s₅.dbufSize.toNat
        (codesIn s₃.ctab (s.inputBytes s.inLen.toNat)) = .ok (s.inputBytes s.inLen.toNat) := by
      rw [hnode, hnode₄, hnode₃, hroot, hroot₄, hroot₃]
      exact hT.decodeBytes_codes ht hcodes hroom₅
    have hv₅ : s₅.treeValid = true := by rw [htree, htree₄, htree₃, hv]
    obtain ⟨t, ht₅, hlen, _, hdbyte, _, hsucc⟩ :=
      exec_unpack_output (hart.congr hpk hpbuf hbytes) hv₅ hout
    refine ⟨t, ht₅, hsucc ▸ rfl, BitVec.eq_of_toNat_eq (hlen.trans hin.length), fun k hk => ?_⟩
    rw [hdbyte k (hin.length.symm ▸ hk)]
    simp [State.inputBytes, hk]
  · intro s s₁ s₂ s₃ s₄ s₅ hs hlen h₁ h₂ h₃ h₄ hpk hpbuf hbytes
    have hin : s.HasInput [] := ⟨hs, by simp [hlen], by rw [hlen]; rfl⟩
    obtain ⟨hok₁, hhist⟩ := exec_count_of_no_input hin h₁
    have hin₁ := hin.command rfl h₁
    have hin₃ : s₃.HasInput [] := by
      rcases h₃ with rfl | h₃
      · exact hin₁
      · exact (hin₁.command rfl h₂).command rfl h₃
    obtain ⟨hok₄, hart⟩ := exec_pack_of_no_input hin₃ h₄
    rw [exec_build_empty hhist, Host.Outcome.next.injEq] at h₂
    subst h₂
    exact ⟨hok₁, rfl, hok₄, _, unpackOfNothing s₅ (hart.congr hpk hpbuf hbytes), rfl, rfl⟩

end Sys2Proof.Machine

/-! PROOFS. Issue and completion: a write to CMD, the status after a completion, NOP, CLR and the illegal words,
and the end of every run; the obligations of 45_control. -/

namespace Sys2Proof.Machine

/-! ### The end of a run (45_control R216, 70_reset R272) -/

/-- No instruction changes what is scheduled (log entry 1). -/
theorem exec_schedule {i : Instr} {s t : State} (h : exec i s = .next t) : t.schedule = s.schedule := by
  cases hi : i.isCommand with
  | true => exact (exec_command_keepsHost hi h).schedule
  | false => rw [exec_transaction_frame hi h]

/-- After its completion no command is pending (R211). -/
theorem exec_command_pending {i : Instr} {s t : State} (hi : i.isCommand = true)
    (h : exec i s = .next t) : t.pending = none := by
  rcases exec_command_next hi h with ⟨u, _, rfl⟩ | ⟨e, _, rfl⟩ <;> rfl

/-- A step takes one event off the schedule and puts none on it (log entry 1). -/
theorem step_schedule {s t : State} (h : step s = .next t) : t.schedule = s.schedule.tail := by
  obtain ⟨events, ⟨tr, hs, he⟩ | ⟨hs, rfl⟩ | ⟨hs, hcore⟩⟩ := step_next_cases h
  · rw [hs, exec_schedule he, List.tail_cons]
  · rw [hs, List.tail_cons, State.resetEvent_schedule]
  · have htail : s.schedule.tail = events := by
      rcases hs with hs | ⟨hs, rfl⟩ <;> rw [hs] <;> rfl
    rw [htail]
    rcases hcore with ⟨w, _, he⟩ | ⟨_, rfl⟩
    · exact exec_schedule he
    · rfl

/-- After the last event the core completes what is pending (R216). -/
theorem step_empty_completes {s t : State} (hs : s.schedule = []) (h : step s = .next t) :
    t.pending = none := by
  rcases Option.eq_none_or_eq_some s.pending with hp | ⟨w, hp⟩
  · obtain rfl := Host.Outcome.next.inj ((step_empty_idle hp hs).symm.trans h)
    exact hp
  · exact exec_command_pending (Laws.Space.decodeCommand_isCommand w) ((step_empty_pending hp hs).symm.trans h)

theorem State.ended_iff (s : State) : s.ended = true ↔ s.schedule = [] ∧ s.pending = none := by
  simp [State.ended, s.busy_false_iff]

theorem run_succ_of_step {s t : State} (k : Nat) (h : step s = .next t) :
    Sys2Proof.core.run (k + 1) s = Sys2Proof.core.run k t := by
  have h : Sys2Proof.core.step s = .next t := h
  simp only [Host.Core.run, h]

/-- Settles O18, by induction on the schedule: each step goes on, keeps the invariant and takes one event,
and the step after the last one completes what is pending. -/
theorem everyRunEnds : Obligations.EveryRunEnds := by
  intro s hInv
  induction hs : s.schedule generalizing s with
  | nil =>
    obtain ⟨t, ht⟩ := noStepStops s hInv
    refine ⟨t, run_succ_of_step 0 ht, t.ended_iff.2 ⟨?_, step_empty_completes hs ht⟩⟩
    rw [step_schedule ht, hs, List.tail_nil]
  | cons event events ih =>
    obtain ⟨t, ht⟩ := noStepStops s hInv
    have htail : t.schedule = events := by rw [step_schedule ht, hs, List.tail_cons]
    obtain ⟨u, hu, hend⟩ := ih t (stepKeepsInvariant s t hInv ht) htail
    exact ⟨u, (run_succ_of_step _ ht).trans hu, hend⟩

/-! ### Issue and completion (45_control R210, R211) -/

/-- LAST_OP of a decoded word is its field OP (R211). -/
theorem commandOp_decodeCommand (w : Word) : commandOp (decodeCommand w) = w.extractLsb' 0 4 := by
  rw [commandOp, encode_decodeCommand]

theorem CmdError.sub_ne_zero (e : CmdError) : e.sub ≠ 0 := by
  intro h
  simpa [h] using e.sub_listed.2.1

/-- Settles O9, one case per completion of a command. -/
theorem completionUpdatesStatus : Obligations.CompletionUpdatesStatus := by
  intro w s t h
  rw [← commandOp_decodeCommand w]
  rcases exec_command_next (Laws.Space.decodeCommand_isCommand w) h with ⟨u, hu, rfl⟩ | ⟨e, _, rfl⟩
  · refine ⟨rfl, rfl, rfl, fun _ => ?_, fun he => absurd rfl he⟩
    rw [(writes_of_commandResult hu).frame]
    exact ⟨rfl, rfl, rfl, rfl⟩
  · exact ⟨rfl, rfl, rfl, fun hok => absurd hok e.sub_listed.1, fun _ => ⟨e.sub_ne_zero, rfl, rfl⟩⟩

theorem writeReg_cmd_idle {s : State} (w : Word) (hp : s.pending = none) :
    s.writeReg w .cmd = some { s with pending := some w } := by
  simp [State.writeReg, s.busy_false_iff.2 hp]

theorem writeReg_cmd_pending {s : State} (w : Word) (hp : s.pending ≠ none) : s.writeReg w .cmd = none := by
  simp [State.writeReg, s.busy_iff.2 hp]

/-- Settles O8: offset 4 is CMD's, and CMD is written only while nothing is pending. -/
theorem cmdWriteIssuesCommand : Obligations.CmdWriteIssuesCommand := by
  intro s w
  have hcmd : exec (.wr32 0x004 w) s = .next (s.answerWrite (s.writeReg w .cmd)) :=
    exec_wr32_register s w (by decide) (by decide)
  refine ⟨fun hp => ?_, fun hp => ?_⟩
  · rw [hcmd, writeReg_cmd_idle w hp, State.answerWrite_some]
  · rw [hcmd, writeReg_cmd_pending w hp, State.answerWrite_none]

/-! ### NOP, CLR and the illegal words (45_control R213 to R215) -/

/-- Settles O19. -/
theorem nopCompletes : Obligations.NopCompletes := fun _ => rfl

/-- Settles O20: CLR's tables are the empty ones. -/
theorem clrClearsUnits : Obligations.ClrClearsUnits := fun s =>
  ⟨s.cleared.succeeded 6, rfl, histAt_emptyHist, nodeAt_emptyNodes, codeAt_emptyCodes, rfl⟩

/-- The report of an illegal word is read off its two fields (R90, R215). -/
theorem State.completeIllegal_append (s : State) (r : BitVec 28) (p : BitVec 4) :
    s.completeIllegal (r ++ p) = s.failed p .illegalCmd (if r = 0 then 2 else 1) (r ++ p) := by
  simp [State.completeIllegal, CmdError.code, CmdError.sub, CmdError.pos, extract_low r p, extract_high r p]

/-- Settles O21: RSVD is 0 in the words of the first two rows and not in those of the third. -/
theorem illegalWordsReport : Obligations.IllegalWordsReport := by
  refine fun s => ⟨?_, fun o => ?_, fun r p hr => ?_⟩
  · exact congrArg Host.Outcome.next (s.completeIllegal_append 0 7)
  · exact congrArg Host.Outcome.next (s.completeIllegal_append 0 (1#1 ++ o))
  · have h := s.completeIllegal_append r p
    rw [if_neg hr] at h
    exact congrArg Host.Outcome.next h

end Sys2Proof.Machine

/-! PROOFS. The steps that run no instruction: an idle step and the reset event; the obligation of
60_exceptions. -/

namespace Sys2Proof.Machine

/-! ### Idle steps and the reset event (60_exceptions R245, 70_reset R260, R261) -/

/-- Where no byte has been written since reset, every byte is its draw (log entry 4). -/
theorem State.readByte_unwritten {s : State} (h : s.mem = []) (a : Nat) :
    s.readByte a = Config.bufferDraw s.draws a := by
  rw [State.readByte, h]
  rfl

/-- Settles O5: an idle step takes its event alone; a reset step is the reset event, whose memory lists no
written byte. -/
theorem stepWithoutInstruction : Obligations.StepWithoutInstruction := by
  refine ⟨fun s hp hs => step_empty_idle hp hs, fun s events hp hs => step_core_idle hp hs,
    fun s events hs => ?_⟩
  refine ⟨_, step_reset hs, ?whole, State.resetEvent_draws _, ?bytes⟩
  case whole => rfl
  case bytes => exact State.readByte_unwritten (State.resetEvent_mem _)

end Sys2Proof.Machine
